-- ==== Sys2Proof/Word.lean ====
section
/-! DEFINITION. The word types of the block (`spec/00_scope.md` R10: every value is an unsigned bit
vector of stated width, bit 0 the least significant). -/

namespace Sys2Proof

/-- One byte on the bus, in the page buffer or in the flash array (R50). -/
abbrev Byte := BitVec 8

/-- A flash address: "a 24-bit unsigned offset into the chip's linear byte space" (R50). -/
abbrev Addr := BitVec 24

/-- The millisecond counter's reading and a timeout operand, `TIMER_W` = 32 bits (R6, R255). -/
abbrev Millis := BitVec 32

/-- The chip-select identifier: "the block itself treats it as an opaque number" (R22). It has
`CS_ID_W` bits, which is a parameter, so its bound is in the decoder, the register write and the
invariant, not in the type. -/
abbrev CsId := Nat

/-- The host request word (R99). -/
abbrev RequestWord := BitVec 64

/-- `PB[0..255]`, exactly 256 bytes (R37). -/
abbrev PageBuffer := Vector Byte 256

end Sys2Proof
end

