-- ==== Sys2Proof/Config.lean ====
section
/-! DEFINITION. What one configuration of the block fixes (`spec/00_scope.md` R6, R7) and the values
the spec leaves open. The opaque constants have no body: nothing proved of the model can rest on
a value of theirs. -/

namespace Sys2Proof

/-- The wire commands, the closed enumeration of R95 and R106: 14 commands and the alternative
probe MFR_DEV_ID. -/
inductive WireOp where
  | wren | wrdi | rdsr1 | pp | read | se | be32 | be64 | ce | pd | rpd | jedec | rsten | rst
  | mfrDevId
  deriving DecidableEq, Repr

/-- Every wire command, in the order of R95. -/
def WireOp.all : List WireOp :=
  [.wren, .wrdi, .rdsr1, .pp, .read, .se, .be32, .be64, .ce, .pd, .rpd, .jedec, .rsten, .rst,
   .mfrDevId]

/-- `OPC_ID_PROBE`: which identification read INIT's probe uses (R6, R154, D6). -/
inductive ProbeOp where
  | jedec | mfrDevId
  deriving DecidableEq, Repr

/-- The wire command of a probe choice. -/
def ProbeOp.wireOp : ProbeOp → WireOp
  | .jedec => .jedec
  | .mfrDevId => .mfrDevId

/-- `SPI_BIT_ORDER` (R6, R23). -/
inductive BitOrder where
  | msbFirst | lsbFirst
  deriving DecidableEq, Repr

/-- `bus_cfg`, "bus timing/mode configuration" (R23). -/
structure BusCfg where
  clkHz    : Nat
  mode     : BitVec 2
  bitOrder : BitOrder
  deriving DecidableEq, Repr

/-- The parameters of R6 that may differ between two instances of the block. The fixed rows of R6
are the constants below. -/
structure Params where
  opcWren     : Byte
  opcWrdi     : Byte
  opcRdsr1    : Byte
  opcPp       : Byte
  opcRead     : Byte
  opcSe       : Byte
  opcBe32     : Byte
  opcBe64     : Byte
  opcCe       : Byte
  opcPd       : Byte
  opcRpd      : Byte
  opcJedec    : Byte
  opcRsten    : Byte
  opcRst      : Byte
  opcMfrDevId : Byte
  /-- `OPC_ID_PROBE` -/
  idProbe     : ProbeOp
  /-- `SPI_CLK_HZ` -/
  spiClkHz    : Nat
  /-- `T_DEFAULT_MS` -/
  tDefaultMs  : Millis
  /-- `T_CHIP_ERASE_MS` -/
  tChipEraseMs : Millis
  /-- `T_RST_SETTLE_US` -/
  tRstSettleUs : Nat
  /-- `T_PD_SETTLE_US` -/
  tPdSettleUs : Nat
  /-- `POLL_DELAY_US` -/
  pollDelayUs : Nat
  /-- `CAPACITY_BYTES`, read by the reference chip only (D24) -/
  capacityBytes : Nat
  /-- `CS_ID_W` (R6, R22, D28) -/
  csIdW : Nat
  deriving DecidableEq, Repr

/-- The opcode byte of a wire command in a configuration (R95). -/
def Params.opc (p : Params) : WireOp → Byte
  | .wren => p.opcWren
  | .wrdi => p.opcWrdi
  | .rdsr1 => p.opcRdsr1
  | .pp => p.opcPp
  | .read => p.opcRead
  | .se => p.opcSe
  | .be32 => p.opcBe32
  | .be64 => p.opcBe64
  | .ce => p.opcCe
  | .pd => p.opcPd
  | .rpd => p.opcRpd
  | .jedec => p.opcJedec
  | .rsten => p.opcRsten
  | .rst => p.opcRst
  | .mfrDevId => p.opcMfrDevId

/-- The constraints R6 and R95 put on a configuration: the 15 opcodes pairwise distinct, chip erase
allowed more time than the default, a positive poll delay (D12), a capacity that is a power of
two and at most 2^24, at least one bit of chip-select identifier. -/
def Params.wf (p : Params) : Bool :=
  decide (WireOp.all.map p.opc).Nodup && decide (p.tDefaultMs < p.tChipEraseMs)
    && decide (0 < p.pollDelayUs) && (List.range 25).any (fun k => p.capacityBytes == 2 ^ k)
    && decide (1 ≤ p.csIdW)

/-- `DUMMY_BYTE`, driven while receiving (R6, R97). -/
def dummyByte : Byte := 0x00

/-- `PAGE_SIZE` (R6). -/
def pageSize : Nat := 256

/-- `SECTOR_SIZE` (R6). -/
def sectorSize : Nat := 4096

/-- `BLOCK32_SIZE` (R6). -/
def block32Size : Nat := 32768

/-- `BLOCK64_SIZE` (R6). -/
def block64Size : Nat := 65536

/-- `ID_PROBE_LEN` (R6). -/
def idProbeLen : Nat := 5

/-- `JEDEC_LEN` (R6). -/
def jedecLen : Nat := 3

/-- `PAGES`, `SECTORS`, `BLOCKS32`, `BLOCKS64` (R7). -/
def Params.pages (p : Params) : Nat := p.capacityBytes / pageSize
def Params.sectors (p : Params) : Nat := p.capacityBytes / sectorSize
def Params.blocks32 (p : Params) : Nat := p.capacityBytes / block32Size
def Params.blocks64 (p : Params) : Nat := p.capacityBytes / block64Size

/-- `SPI_CLK_HZ` is OPEN (R6, D16): free (assumption 6). -/
opaque Config.spiClkHz : Nat

/-- The two OPEN timeouts (R6, D14) are made from these free numbers (assumption 6). -/
opaque Config.openDefaultMs : Nat
opaque Config.openChipEraseMs : Nat

/-- The byte the bus answers when the state holds no scripted answer: any value (R122, U1;
assumption 2). The argument is the number of free values drawn before. -/
opaque Config.freeBusByte : Nat → Byte

/-- How far the millisecond counter has advanced at a reading for which the state holds no
scripted advance: any number (R256, assumption 3). -/
opaque Config.freeAdvance : Nat → Nat

/-- The scratch counter `idx` outside a frame: any value (R27, U3; assumption 14). The argument is
the number of events before. -/
opaque Config.freeIdx : Nat → Byte

/-- `T_DEFAULT_MS`: any value below 2^32 - 1, so that a larger `T_CHIP_ERASE_MS` exists (R6). -/
def Config.tDefaultMs : Millis := BitVec.ofNat 32 (Config.openDefaultMs % (2 ^ 32 - 1))

/-- `T_CHIP_ERASE_MS`: any value above `T_DEFAULT_MS` (R6). -/
def Config.tChipEraseMs : Millis :=
  BitVec.ofNat 32 (Config.tDefaultMs.toNat + 1
    + Config.openChipEraseMs % (2 ^ 32 - 1 - Config.tDefaultMs.toNat))

end Sys2Proof
end

