-- ==== Sys2Proof/Syntax.lean ====
section
/-! DEFINITION. The instructions: one constructor per row of `spec/opcode_table.json`, 16 host
requests (`spec/30_encoding.md` R100) and 15 wire frames (R95). -/

namespace Sys2Proof

/-- The two uses of the JEDEC frame: 3 bytes for GET_JEDEC, 5 as INIT's probe (R151). -/
inductive JedecUse where
  | ident | probe
  deriving DecidableEq, Repr

inductive Instr where
  /-- INIT, R200 -/
  | init (csId : CsId)
  /-- ENABLE_WRITING, R170 -/
  | enableWriting
  /-- DISABLE_WRITING, R171 -/
  | disableWriting
  /-- WRITE_PAGE, R180 -/
  | writePage (addr : Addr)
  /-- READ_PAGE, R181 -/
  | readPage (addr : Addr)
  /-- ERASE_SECTOR, R190 -/
  | eraseSector (addr : Addr) (hold : Bool)
  /-- ERASE_BLOCK32, R191 -/
  | eraseBlock32 (addr : Addr) (hold : Bool)
  /-- ERASE_BLOCK64, R192 -/
  | eraseBlock64 (addr : Addr) (hold : Bool)
  /-- ERASE_CHIP, R193 -/
  | eraseChip (hold : Bool)
  /-- GET_JEDEC, R201 -/
  | getJedec
  /-- BUSY, R220 -/
  | busy
  /-- WAIT_UNTIL_FREE, R221 -/
  | waitUntilFree (timeout : Millis)
  /-- RESET, R202 -/
  | reset
  /-- POWER_DOWN, R203 -/
  | powerDown
  /-- RELEASE_POWER_DOWN, R204 -/
  | releasePowerDown
  /-- op code 0xF, R225 -/
  | reservedF
  /-- WREN, R140 -/
  | wren
  /-- WRDI, R141 -/
  | wrdi
  /-- RDSR1, R142 -/
  | rdsr1
  /-- PP, R143: the frame carries its 256 payload bytes -/
  | pp (addr : Addr) (data : List Byte)
  /-- READ, R144 -/
  | read (addr : Addr)
  /-- SE, R145 -/
  | se (addr : Addr)
  /-- BE32, R146 -/
  | be32 (addr : Addr)
  /-- BE64, R147 -/
  | be64 (addr : Addr)
  /-- CE, R148 -/
  | ce
  /-- PD, R149 -/
  | pd
  /-- RPD, R150 -/
  | rpd
  /-- JEDEC, R151 -/
  | jedec (use : JedecUse)
  /-- RSTEN, R152 -/
  | rsten
  /-- RST, R153 -/
  | rst
  /-- MFR_DEV_ID, R154 -/
  | mfrDevId
  deriving DecidableEq, Repr

end Sys2Proof
end

