-- ==== Sys2Proof/WellFormed.lean ====
section
/-! DEFINITION. Which instruction terms stand for an encoding the block can emit or accept. -/

namespace Sys2Proof

/-- The two checks the types do not already make: a page program carries "exactly 256 payload
bytes" (`spec/30_encoding.md` R92, `spec/20_memory.md` R57), and INIT's identifier has `CS_ID_W` bits
(R107) of the word's 32-bit `arg` field (R99). -/
def Instr.wf (p : Params) : Instr → Bool
  | .init csId => decide (csId < 2 ^ p.csIdW) && decide (csId < 2 ^ 32)
  | .pp _ data => data.length == 256
  | .enableWriting | .disableWriting | .writePage _ | .readPage _ => true
  | .eraseSector _ _ | .eraseBlock32 _ _ | .eraseBlock64 _ _ | .eraseChip _ => true
  | .getJedec | .busy | .waitUntilFree _ | .reset | .powerDown | .releasePowerDown => true
  | .reservedF | .wren | .wrdi | .rdsr1 | .read _ | .se _ | .be32 _ | .be64 _ | .ce => true
  | .pd | .rpd | .jedec _ | .rsten | .rst | .mfrDevId => true

end Sys2Proof
end

