-- ==== Sys2Proof/Decode.lean ====
section
/-! DEFINITION. The two encodings of `spec/30_encoding.md`: the 64-bit host request word (R99, R100)
and the wire frames (R91 to R97). A decoder for each, total and rejecting by name, and the encoder
written from the same tables. -/

namespace Sys2Proof

/-! ## Configuration defaults -/

/-- The default configuration of R6. The opcode bytes are the defaults of R95, which the spec marks
as general knowledge (GK1; assumption 5); the OPEN parameters are free (assumption 6). -/
def Params.default : Params where
  opcWren := 0x06
  opcWrdi := 0x04
  opcRdsr1 := 0x05
  opcPp := 0x02
  opcRead := 0x03
  opcSe := 0x20
  opcBe32 := 0x52
  opcBe64 := 0xD8
  opcCe := 0xC7
  opcPd := 0xB9
  opcRpd := 0xAB
  opcJedec := 0x9F
  opcRsten := 0x66
  opcRst := 0x99
  opcMfrDevId := 0x90
  idProbe := .jedec
  spiClkHz := Config.spiClkHz
  tDefaultMs := Config.tDefaultMs
  tChipEraseMs := Config.tChipEraseMs
  tRstSettleUs := 35
  tPdSettleUs := 10
  pollDelayUs := 1000
  capacityBytes := 8388608
  csIdW := 8

/-! ## Addresses -/

/-- `AddrBytes(A) = [A[23:16], A[15:8], A[7:0]]`, high byte first (R93). -/
def addrBytes (a : Addr) : List Byte :=
  [a.extractLsb' 16 8, a.extractLsb' 8 8, a.extractLsb' 0 8]

/-- The address three wire bytes carry, first byte most significant (R92, R93). -/
def addrOfBytes (hi mid lo : Byte) : Addr := hi ++ mid ++ lo

/-! ## The host request word -/

/-- R99: `op` 63:60, `hold` 59, reserved 58:56 written 0, `addr` 55:32, `arg` 31:0. -/
def requestWord (op : BitVec 4) (hold : Bool) (addr : Addr) (arg : BitVec 32) : RequestWord :=
  op ++ BitVec.ofBool hold ++ 0#3 ++ addr ++ arg

/-- The fields of a request word (R99). -/
def reqOpField (w : RequestWord) : BitVec 4 := w.extractLsb' 60 4
def reqHoldField (w : RequestWord) : Bool := w.getLsbD 59
def reqAddrField (w : RequestWord) : Addr := w.extractLsb' 32 24
def reqTimeoutField (w : RequestWord) : Millis := w.extractLsb' 0 32

/-- The `CS_ID_W` low bits of a number: what a register of that width holds (R22). -/
def csIdLow (p : Params) (n : Nat) : CsId := n % 2 ^ p.csIdW

/-- `req_cs_id` (R99): the low `CS_ID_W` bits of `arg`, bits 7:0 of the word at the default width
(assumption 7). -/
def reqCsIdField (p : Params) (w : RequestWord) : CsId := csIdLow p (w.extractLsb' 0 32).toNat

/-- The operation an op code selects, over the operand registers' values (R100, R30). An operation
ignores every operand its row does not list. -/
def instrOfOperands (op : BitVec 4) (hold : Bool) (addr : Addr) (timeout : Millis) (csId : CsId) :
    Instr :=
  match op.toNat with
  | 0 => .init csId
  | 1 => .enableWriting
  | 2 => .disableWriting
  | 3 => .writePage addr
  | 4 => .readPage addr
  | 5 => .eraseSector addr hold
  | 6 => .eraseBlock32 addr hold
  | 7 => .eraseBlock64 addr hold
  | 8 => .eraseChip hold
  | 9 => .getJedec
  | 10 => .busy
  | 11 => .waitUntilFree timeout
  | 12 => .reset
  | 13 => .powerDown
  | 14 => .releasePowerDown
  | _ => .reservedF

/-- Every request word is some operation: "all 16 values of `op` are defined" (R102). -/
def decodeRequest (p : Params) (w : RequestWord) : Instr :=
  instrOfOperands (reqOpField w) (reqHoldField w) (reqAddrField w) (reqTimeoutField w)
    (reqCsIdField p w)

/-! ## The wire frames -/

/-- The five wire formats of R92. -/
inductive WireFormat where
  | op | opA | opATx256 | opARx256 | opRx
  deriving DecidableEq, Repr

/-- The format column of R95. -/
def wireFormat : WireOp → WireFormat
  | .wren | .wrdi | .rsten | .rst | .pd | .rpd | .ce => .op
  | .se | .be32 | .be64 => .opA
  | .pp => .opATx256
  | .read => .opARx256
  | .rdsr1 | .jedec | .mfrDevId => .opRx

/-- Why a byte sequence is no frame of the block (R105, R96). -/
inductive DecodeReject where
  /-- no byte between SEL and DESEL -/
  | emptyFrame
  /-- the first byte is not in the set of R95 -/
  | unknownOpcode (b : Byte)
  /-- the frame's length is not the command's (R96); the number of bytes after the opcode -/
  | badLength (op : WireOp) (n : Nat)
  /-- a byte driven while receiving is not `DUMMY_BYTE` (R97) -/
  | notDummy (op : WireOp)
  deriving DecidableEq, Repr

/-- The command a first byte stands for, if any (R95, R105). -/
def wireOpOf (p : Params) (b : Byte) : Option WireOp :=
  WireOp.all.find? (fun op => p.opc op == b)

/-- Whether a list has exactly `n` bytes (one comparison a byte, so that the kernel evaluates it on a
260-byte frame). -/
def hasLength : Nat → List Byte → Bool
  | 0, [] => true
  | 0, _ :: _ => false
  | _ + 1, [] => false
  | n + 1, _ :: l => hasLength n l

/-- Whether every byte is `DUMMY_BYTE` (R97). -/
def allDummy : List Byte → Bool
  | [] => true
  | b :: l =>
    match b == dummyByte with
    | true => allDummy l
    | false => false

/-- A command whose bytes after the opcode are `n` received ones. -/
def decodeRx (op : WireOp) (i : Instr) (n : Nat) (rest : List Byte) : Except DecodeReject Instr :=
  match hasLength n rest, allDummy rest with
  | true, true => .ok i
  | true, false => .error (.notDummy op)
  | false, _ => .error (.badLength op rest.length)

/-- A command that is its opcode alone. -/
def decodeBare (op : WireOp) (i : Instr) (rest : List Byte) : Except DecodeReject Instr :=
  match rest with
  | [] => .ok i
  | _ :: _ => .error (.badLength op rest.length)

/-- A command that is its opcode and an address. -/
def decodeAddressed (op : WireOp) (i : Addr → Instr) :
    List Byte → Except DecodeReject Instr
  | [hi, mid, lo] => .ok (i (addrOfBytes hi mid lo))
  | rest => .error (.badLength op rest.length)

/-- The bytes after the opcode of one command (R92, R96). -/
def decodeBody (op : WireOp) (rest : List Byte) : Except DecodeReject Instr :=
  match op with
  | .wren => decodeBare .wren .wren rest
  | .wrdi => decodeBare .wrdi .wrdi rest
  | .rdsr1 => decodeRx .rdsr1 .rdsr1 1 rest
  | .pp =>
    match rest with
    | hi :: mid :: lo :: data =>
      match hasLength 256 data with
      | true => .ok (.pp (addrOfBytes hi mid lo) data)
      | false => .error (.badLength .pp rest.length)
    | _ => .error (.badLength .pp rest.length)
  | .read =>
    match rest with
    | hi :: mid :: lo :: dummies => decodeRx .read (.read (addrOfBytes hi mid lo)) 256 dummies
    | _ => .error (.badLength .read rest.length)
  | .se => decodeAddressed .se .se rest
  | .be32 => decodeAddressed .be32 .be32 rest
  | .be64 => decodeAddressed .be64 .be64 rest
  | .ce => decodeBare .ce .ce rest
  | .pd => decodeBare .pd .pd rest
  | .rpd => decodeBare .rpd .rpd rest
  | .jedec =>
    match hasLength 3 rest with
    | true => decodeRx .jedec (.jedec .ident) 3 rest
    | false => decodeRx .jedec (.jedec .probe) 5 rest
  | .rsten => decodeBare .rsten .rsten rest
  | .rst => decodeBare .rst .rst rest
  | .mfrDevId => decodeRx .mfrDevId .mfrDevId 5 rest

/-- The bytes the block drives between SEL and DESEL, read as a command (R91, R96: a frame is cut
at SEL and DESEL and its first byte is the opcode). All fifteen first bytes of R95 and both lengths of
JEDEC are read in every configuration, whatever `OPC_ID_PROBE` is (DESIGN CHOICE, assumption 32). -/
def decodeFrame (p : Params) (bytes : List Byte) : Except DecodeReject Instr :=
  match bytes with
  | [] => .error .emptyFrame
  | b :: rest =>
    match wireOpOf p b with
    | none => .error (.unknownOpcode b)
    | some op => decodeBody op rest

/-! ## Both encodings -/

/-- An encoded instruction: a request word at the host port or the driven bytes of a frame (R90). -/
inductive Code where
  | request (w : RequestWord)
  | frame (bytes : List Byte)
  deriving DecidableEq, Repr

/-- The decoder. -/
def decode (p : Params) : Code → Except DecodeReject Instr
  | .request w => .ok (decodeRequest p w)
  | .frame bytes => decodeFrame p bytes

/-- `n` received bytes, as driven. -/
def dummies (n : Nat) : List Byte := List.replicate n dummyByte

/-- The encoder: unused request fields are 0 (R107), received bytes are driven as `DUMMY_BYTE`
(R97). -/
def encode (p : Params) : Instr → Code
  | .init csId => .request (requestWord 0x0 false 0 (BitVec.ofNat 32 csId))
  | .enableWriting => .request (requestWord 0x1 false 0 0)
  | .disableWriting => .request (requestWord 0x2 false 0 0)
  | .writePage addr => .request (requestWord 0x3 false addr 0)
  | .readPage addr => .request (requestWord 0x4 false addr 0)
  | .eraseSector addr hold => .request (requestWord 0x5 hold addr 0)
  | .eraseBlock32 addr hold => .request (requestWord 0x6 hold addr 0)
  | .eraseBlock64 addr hold => .request (requestWord 0x7 hold addr 0)
  | .eraseChip hold => .request (requestWord 0x8 hold 0 0)
  | .getJedec => .request (requestWord 0x9 false 0 0)
  | .busy => .request (requestWord 0xA false 0 0)
  | .waitUntilFree timeout => .request (requestWord 0xB false 0 timeout)
  | .reset => .request (requestWord 0xC false 0 0)
  | .powerDown => .request (requestWord 0xD false 0 0)
  | .releasePowerDown => .request (requestWord 0xE false 0 0)
  | .reservedF => .request (requestWord 0xF false 0 0)
  | .wren => .frame [p.opcWren]
  | .wrdi => .frame [p.opcWrdi]
  | .rdsr1 => .frame (p.opcRdsr1 :: dummies 1)
  | .pp addr data => .frame (p.opcPp :: (addrBytes addr ++ data))
  | .read addr => .frame (p.opcRead :: (addrBytes addr ++ dummies 256))
  | .se addr => .frame (p.opcSe :: addrBytes addr)
  | .be32 addr => .frame (p.opcBe32 :: addrBytes addr)
  | .be64 addr => .frame (p.opcBe64 :: addrBytes addr)
  | .ce => .frame [p.opcCe]
  | .pd => .frame [p.opcPd]
  | .rpd => .frame [p.opcRpd]
  | .jedec .ident => .frame (p.opcJedec :: dummies 3)
  | .jedec .probe => .frame (p.opcJedec :: dummies 5)
  | .rsten => .frame [p.opcRsten]
  | .rst => .frame [p.opcRst]
  | .mfrDevId => .frame (p.opcMfrDevId :: dummies 5)

/-! ## What an instruction is an encoding of -/

/-- The op code of a host operation (R100). -/
def requestCode : Instr → Option (BitVec 4)
  | .init _ => some 0x0
  | .enableWriting => some 0x1
  | .disableWriting => some 0x2
  | .writePage _ => some 0x3
  | .readPage _ => some 0x4
  | .eraseSector _ _ => some 0x5
  | .eraseBlock32 _ _ => some 0x6
  | .eraseBlock64 _ _ => some 0x7
  | .eraseChip _ => some 0x8
  | .getJedec => some 0x9
  | .busy => some 0xA
  | .waitUntilFree _ => some 0xB
  | .reset => some 0xC
  | .powerDown => some 0xD
  | .releasePowerDown => some 0xE
  | .reservedF => some 0xF
  | .wren | .wrdi | .rdsr1 | .pp _ _ | .read _ | .se _ | .be32 _ | .be64 _ | .ce | .pd | .rpd
  | .jedec _ | .rsten | .rst | .mfrDevId => none

/-- The command of a wire frame (R95). -/
def commandOf : Instr → Option WireOp
  | .wren => some .wren
  | .wrdi => some .wrdi
  | .rdsr1 => some .rdsr1
  | .pp _ _ => some .pp
  | .read _ => some .read
  | .se _ => some .se
  | .be32 _ => some .be32
  | .be64 _ => some .be64
  | .ce => some .ce
  | .pd => some .pd
  | .rpd => some .rpd
  | .jedec _ => some .jedec
  | .rsten => some .rsten
  | .rst => some .rst
  | .mfrDevId => some .mfrDevId
  | .init _ | .enableWriting | .disableWriting | .writePage _ | .readPage _ | .eraseSector _ _
  | .eraseBlock32 _ _ | .eraseBlock64 _ _ | .eraseChip _ | .getJedec | .busy | .waitUntilFree _
  | .reset | .powerDown | .releasePowerDown | .reservedF => none

/-! ## Words numbered as the opcode table numbers them -/

/-- How many bytes follow the opcode in the frame of a command (R92, R96); for JEDEC the 3-byte use. -/
def wireArgLength : WireOp → Nat
  | .wren | .wrdi | .rsten | .rst | .pd | .rpd | .ce => 0
  | .se | .be32 | .be64 => 3
  | .pp | .read => 259
  | .rdsr1 => 1
  | .jedec => 3
  | .mfrDevId => 5

/-- The `n` bytes of a number, the first from its least significant bits. -/
def tableBytes : Nat → Nat → List Byte
  | 0, _ => []
  | n + 1, w => BitVec.ofNat 8 w :: tableBytes n (w / 256)

/-- A table word of a wire row laid out as a frame: the table's bytes, then zeros up to the
command's length. -/
def tableFrame (p : Params) (nbits w : Nat) : List Byte :=
  let given := tableBytes (nbits / 8) w
  match given with
  | [] => []
  | b :: _ =>
    match wireOpOf p b with
    | none => given
    | some op => given ++ List.replicate (1 + wireArgLength op - given.length) 0

/-- A word of `spec/opcode_table.json`: a row of 64 bits is a host request, a shorter one a frame. -/
def tableCode (p : Params) (nbits w : Nat) : Code :=
  if nbits = 64 then .request (BitVec.ofNat 64 w) else .frame (tableFrame p nbits w)

/-- The instruction the decoder reads from a table word at the default configuration. -/
def decodeTableWord (nbits w : Nat) : Option Instr :=
  match decode Params.default (tableCode Params.default nbits w) with
  | .ok i => some i
  | .error _ => none

end Sys2Proof
end

