-- ==== Sys2Proof/Machine/State.lean ====
section
/-! DEFINITION. The state of the block (`spec/10_state.md`), the environment it is attached to
(`spec/20_memory.md` section 5, `spec/60_exceptions.md` section 6), the reasons a step can stop, and
the state right after reset. -/

namespace Sys2Proof.Machine

/-! ## Named values -/

/-- The Operation Result (R240). Codes 5 to 7 are never produced, so no constructor stands for one. -/
inductive Status where
  | ok | communicationFail | busy | timeout | notValid
  deriving DecidableEq, Repr

/-- The states of the busy/wait machine (R25, R222); 3 is never written. -/
inductive WState where
  | ready | busy | timedOut
  deriving DecidableEq, Repr

/-- The place of the sequencer inside a running operation that can be seen between two steps (R24):
at its first line, or at the head of WAIT_UNTIL_FREE's loop with the timeout of this wait. -/
inductive Line where
  | start
  | poll (timeout : Millis)
  deriving DecidableEq, Repr

/-- `phase`: IDLE or RUN(op, k) (R24). -/
inductive Phase where
  | idle
  | run (op : BitVec 4) (k : Line)
  deriving DecidableEq, Repr

/-- The events of a trace (R12). SEL carries what `Select()` hands to the transport, DESEL the
identifier exported with it (R22, R23, R120). -/
inductive Event where
  | sel (csId : CsId) (cfg : BusCfg)
  | x (out ans : Byte)
  | desel (csId : CsId)
  | t (ms : Millis)
  | d (us : Nat)
  deriving DecidableEq, Repr

/-- The result registers a host can read back before they mean anything (R35, R36, R41). -/
inductive ResultReg where
  | rspBusy | idMfr | idType | idCap
  deriving DecidableEq, Repr

/-- What the outside does, in order (R31, R37, R41, R270, R39). -/
inductive HostAction where
  /-- presents a request word with `req_valid = 1` (R31) -/
  | request (w : RequestWord)
  /-- writes the page buffer it owns (R37) -/
  | setPB (buf : PageBuffer)
  /-- reads a result register (R41) -/
  | readResult (r : ResultReg)
  /-- hardware reset of the block (R41, R270) -/
  | hardReset
  /-- power cycle of the chip alone (R39, R281) -/
  | chipPowerCycle
  /-- the model's own: has the leaf layer issue one wire command (assumption 10) -/
  | frame (bytes : List Byte)
  deriving DecidableEq, Repr

/-! ## The reference chip (R70, R71): environment, not part of the block -/

/-- The flash array: (address, byte) pairs, addresses rising, only bytes that differ from the
unlisted value. -/
abbrev Memory := List Host.Cell

/-- How many further status samples report busy; `forever` is the always-busy chip (R71). -/
inductive BusyLeft where
  | samples (n : Nat)
  | forever
  deriving DecidableEq, Repr

/-- The fixture parameters of R71 and R81. -/
structure Fixture where
  idTail3  : Byte
  idTail4  : Byte
  devId    : Byte
  busyPp   : BusyLeft
  busySe   : BusyLeft
  busyBe32 : BusyLeft
  busyBe64 : BusyLeft
  busyCe   : BusyLeft
  deriving DecidableEq, Repr

/-- REFCHIP's state (R71), and the bytes of the transaction that is open. -/
structure RefChip where
  mem      : Memory
  wel      : Bool
  busyLeft : BusyLeft
  pd       : Bool
  rsten    : Bool
  frame    : List Byte
  fixture  : Fixture
  deriving DecidableEq, Repr

/-- What answers on the bus: any device at all (R122, U1), or REFCHIP (R70). -/
inductive BusKind where
  | anyDevice | refChip
  deriving DecidableEq, Repr

/-- The environment: everything that answers the block's events (R9). -/
structure Env where
  /-- the bytes an unconstrained device will answer, in order -/
  busIn   : List Byte
  /-- the true millisecond count, without wrap (R256) -/
  msCount : Nat
  /-- how far the count advances before each coming reading, in order -/
  msIn    : List Nat
  /-- the number of free values drawn so far -/
  draws   : Nat
  bus     : BusKind
  chip    : RefChip
  deriving DecidableEq, Repr

/-! ## The state -/

structure State where
  /-- the configuration (R6); no step writes it -/
  params     : Params
  /-- R22 -/
  csId       : CsId
  /-- R23 -/
  busCfg     : BusCfg
  /-- R21 -/
  welTrack   : Bool
  /-- R24 -/
  phase      : Phase
  /-- R25 -/
  wstate     : WState
  /-- R26: true is 1, deselected -/
  csN        : Bool
  /-- R27; it keeps its value after the operation that wrote it (DESIGN CHOICE, assumption 30) -/
  t0         : Millis
  /-- R27; as `t0` (assumption 30) -/
  probe      : Vector Byte 5
  /-- R27; a free value outside a frame (assumption 14) -/
  idx        : Byte
  /-- R30 -/
  reqOp      : BitVec 4
  reqAddr    : Addr
  reqHold    : Bool
  reqTimeout : Millis
  reqCsId    : CsId
  /-- R33 -/
  rspValid   : Bool
  /-- R34 -/
  rspStatus  : Status
  /-- R35 -/
  rspBusy    : Bool
  /-- R36 -/
  idMfr      : Byte
  idType     : Byte
  idCap      : Byte
  /-- whether `rsp_busy`, and the id registers, have been written since hardware reset (R41, U3) -/
  rspBusyKnown : Bool
  idKnown    : Bool
  /-- R37 -/
  pb         : PageBuffer
  /-- every event so far, oldest first (R12, R60) -/
  trace      : List Event
  /-- what the host does next, in order (R31) -/
  hostIn     : List HostAction
  /-- the environment (R9) -/
  env        : Env
  deriving DecidableEq, Repr

/-! ## Why a step can stop -/

/-- The machine's faults. -/
inductive Fault where
  /-- Raised by `step` when the host reads `rsp_busy` or an id register before an operation has
  written it: R41 has a model "treat a read before that as a fault". Safe: the hardware would answer
  some value. -/
  | unwrittenResult (r : ResultReg)
  deriving DecidableEq, Repr

/-- The refusals. -/
inductive Refusal where
  /-- Raised by an arm of `exec` for an instruction without a meaning. No arm does. Safe. -/
  | notModelled (mnemonic : String)
  /-- Raised by `step` when the model's own raw-frame input holds bytes that are no frame of the
  block (R105). Safe: the block never emits them. -/
  | notAFrame (r : DecodeReject)
  deriving DecidableEq, Repr

/-! ## Reset -/

/-- The bus configuration every INIT and every hardware reset writes: "(SPI_CLK_HZ, mode 0, MSB
first)" (R23, R41). -/
def busConstants (p : Params) : BusCfg := { clkHz := p.spiClkHz, mode := 0, bitOrder := .msbFirst }

/-- REFCHIP at power-up (R71): latch clear, not busy, not powered down, not armed. The array and
the fixture parameters are the test's; the values here are the model's (assumptions 17, 18). -/
def RefChip.powerUp : RefChip where
  mem := []
  wel := false
  busyLeft := .samples 0
  pd := false
  rsten := false
  frame := []
  fixture :=
    { idTail3 := 0xEF, idTail4 := 0x40, devId := 0x16, busyPp := .samples 0, busySe := .samples 0,
      busyBe32 := .samples 0, busyBe64 := .samples 0, busyCe := .samples 0 }

/-- The environment before anything has happened: an unconstrained device, no scripted answer. -/
def Env.initial : Env where
  busIn := []
  msCount := 0
  msIn := []
  draws := 0
  bus := .anyDevice
  chip := .powerUp

/-- Hardware reset (R41) of the block in a configuration. The registers R41 leaves unspecified are
0 (assumption 11), the page buffer, which is not the block's to reset, is 0 (assumption 12). -/
def State.resetWith (p : Params) : State where
  params := p
  csId := 0
  busCfg := busConstants p
  welTrack := false
  phase := .idle
  wstate := .ready
  csN := true
  t0 := 0
  probe := Vector.replicate 5 0
  idx := 0
  reqOp := 0
  reqAddr := 0
  reqHold := false
  reqTimeout := 0
  reqCsId := 0
  rspValid := false
  rspStatus := .ok
  rspBusy := false
  idMfr := 0
  idType := 0
  idCap := 0
  rspBusyKnown := false
  idKnown := false
  pb := Vector.replicate 256 0
  trace := []
  hostIn := []
  env := .initial

/-- The machine right after power-on at the default configuration. -/
def State.reset : State := .resetWith .default

end Sys2Proof.Machine
end

