-- ==== Sys2Proof/Machine/Operands.lean ====
section
/-! DEFINITION. Operand forms and the block's arithmetic (`spec/00_scope.md` R16): what a frame
carries, the elapsed time, buffers made of received bytes, and the data-driven table of R106. -/

namespace Sys2Proof.Machine

/-! ## The command table of R106 -/

/-- "guarded by a busy check" (R106): every command but the status read itself, the release from
power-down and the second half of the reset pair. -/
def wireGuarded : WireOp → Bool
  | .rdsr1 | .rpd | .rst => false
  | .wren | .wrdi | .pp | .read | .se | .be32 | .be64 | .ce | .pd | .jedec | .rsten
  | .mfrDevId => true

/-- "needs write-enable first" (R106). -/
def wireNeedsWriteEnable : WireOp → Bool
  | .pp | .se | .be32 | .be64 | .ce => true
  | .wren | .wrdi | .rdsr1 | .read | .pd | .rpd | .jedec | .rsten | .rst | .mfrDevId => false

/-! ## Buffers -/

/-- A page buffer of 256 received bytes, the first into `PB[0]` (R53, R181). -/
def pageOfBytes (bytes : List Byte) : PageBuffer := Vector.ofFn fun i => bytes.getD i.val 0

/-- The five bytes of INIT's probe in arrival order (R200). -/
def probeOfBytes (bytes : List Byte) : Vector Byte 5 := Vector.ofFn fun i => bytes.getD i.val 0

/-- The payload of a page program, `AddrBytes(A) ++ [PB[0], ..., PB[255]]` (R143, R180). -/
def programPayload (addr : Addr) (data : List Byte) : List Byte := addrBytes addr ++ data

/-! ## Time -/

/-- The reading of a true count: `TIMER_W` = 32 bits, wrapping (R255, R256). -/
def readingOf (count : Nat) : Millis := BitVec.ofNat 32 count

/-- `(t - t0) mod 2^32` (R16 (e), R221). -/
def elapsed (t t0 : Millis) : Millis := t - t0

/-- "exceeds max_timeout": strictly greater, unsigned (R221). -/
def deadlinePassed (t t0 timeout : Millis) : Bool := decide (timeout < elapsed t t0)

/-! ## One byte on the wire -/

/-- The eight bits of a byte in the order they are on the wire, most significant first (R53 (c),
R94). -/
def wireBits (b : Byte) : List Bool :=
  [b.getLsbD 7, b.getLsbD 6, b.getLsbD 5, b.getLsbD 4, b.getLsbD 3, b.getLsbD 2, b.getLsbD 1,
   b.getLsbD 0]

end Sys2Proof.Machine
end

