-- ==== Sys2Proof/Machine/Flags.lean ====
section
/-! DEFINITION. Every flag computation of the spec: the busy bit, the busy/wait state, the write
enable mirror's writers, the status codes. -/

namespace Sys2Proof.Machine

/-- `BUSY_BIT`: bit 0 of status register 1 (R38, R126). Bits 7:1 are ignored. -/
def busyBit (statusByte : Byte) : Bool := statusByte.getLsbD 0

/-- What a status sample writes to `wstate` (R126, R222). -/
def wstateOfSample (busy : Bool) : WState := if busy then .busy else .ready

/-- `rsp_status`'s 3-bit code (R240). -/
def statusCode : Status → BitVec 3
  | .ok => 0
  | .communicationFail => 1
  | .busy => 2
  | .timeout => 3
  | .notValid => 4

/-- `wstate`'s 2-bit encoding (R25). -/
def wstateCode : WState → BitVec 2
  | .ready => 0
  | .busy => 1
  | .timedOut => 2

/-- The implausible identification of INIT's probe: "`probe[4] = 0x00` and looks at no other byte"
(R200). -/
def probeImplausible (probe : Vector Byte 5) : Bool := probe[4] == 0x00

/-- REFCHIP's busy condition, `busy_left > 0` (R71). -/
def BusyLeft.isBusy : BusyLeft → Bool
  | .samples 0 => false
  | .samples (_ + 1) => true
  | .forever => true

/-- `busy_left <- busy_left - 1` after a busy status byte (R73). -/
def BusyLeft.afterSample : BusyLeft → BusyLeft
  | .samples 0 => .samples 0
  | .samples (n + 1) => .samples n
  | .forever => .forever

/-- REFCHIP's status byte `(wel << 1) | busy`, bits 7:2 zero (R73). -/
def refStatusByte (wel busy : Bool) : Byte :=
  (if wel then 0x02 else 0x00) ||| (if busy then 0x01 else 0x00)

end Sys2Proof.Machine
end

