-- ==== Sys2Proof/Machine/Memory.lean ====
section
/-! DEFINITION. Operations on the flash array (`spec/20_memory.md` R51, R75 to R78), held in one
canonical form. The array has no upper bound of its own: REFCHIP's frames are checked against
`CAPACITY_BYTES` by their address, and where the capacity is smaller than a page or an erase unit the rest
of that page or unit is stored, erased and read back like any other byte (DESIGN CHOICE, assumption
33). -/

namespace Sys2Proof.Machine

/-- What an address that is not listed reads as: an erased byte (assumption 17). -/
def Memory.blank : Byte := 0xFF

/-- One byte. -/
def Memory.read : Memory → Nat → Byte
  | [], _ => Memory.blank
  | (x, v) :: m, a => if x = a then v else Memory.read m a

/-- Store one byte, keeping the addresses rising and no blank byte listed. -/
def Memory.write : Memory → Nat → Byte → Memory
  | [], a, b => if b = Memory.blank then [] else [(a, b)]
  | (x, v) :: m, a, b =>
    if x < a then (x, v) :: Memory.write m a b
    else if x = a then (if b = Memory.blank then m else (a, b) :: m)
    else if b = Memory.blank then (x, v) :: m
    else (a, b) :: (x, v) :: m

/-- The canonical form from address `lo` on: addresses strictly rising, no listed byte blank. -/
def Memory.wfFrom : Nat → Memory → Bool
  | _, [] => true
  | lo, (x, v) :: m => decide (lo ≤ x) && v != Memory.blank && Memory.wfFrom (x + 1) m

/-- The canonical form. -/
def Memory.wf (m : Memory) : Bool := Memory.wfFrom 0 m

/-- `n` bytes from address `a` on, ascending (R76), at or above the capacity too (assumption 33). -/
def Memory.readBytes (m : Memory) (a : Nat) : Nat → List Byte
  | 0 => []
  | n + 1 => m.read a :: Memory.readBytes m (a + 1) n

/-- Program: `mem[A + i] <- mem[A + i] AND d[i]` (R75: "program can only clear bits to 0"), at or above
the capacity too (assumption 33). -/
def Memory.program : Memory → Nat → List Byte → Memory
  | m, _, [] => m
  | m, a, b :: bs => Memory.program (m.write a (m.read a &&& b)) (a + 1) bs

/-- Erase: `mem[B .. B+U-1] <- 0xFF` (R77: "erase sets bits to 1"), at or above the capacity too
(assumption 33). -/
def Memory.eraseRange (m : Memory) (base size : Nat) : Memory :=
  m.filter (fun c => !(decide (base ≤ c.1) && decide (c.1 < base + size)))

end Sys2Proof.Machine
end

