-- ==== Sys2Proof/Machine/RefChip.lean ====
section
/-! DEFINITION. REFCHIP, the reference chip of `spec/20_memory.md` R70 to R84: what it answers to
each byte, and what a finished transaction does to it. Environment, not part of the block. -/

namespace Sys2Proof.Machine

/-- `ID = [0xEF, 0x40, 0x17]` (R71). -/
def refId : List Byte := [0xEF, 0x40, 0x17]

/-- The bytes clocked out by JEDEC (R81). -/
def refJedecBytes (f : Fixture) : List Byte := refId ++ [f.idTail3, f.idTail4]

/-- The bytes clocked out by MFR_DEV_ID (R81). -/
def refMfrBytes (f : Fixture) : List Byte := [0xFF, 0xFF, 0xFF, 0xEF, f.devId]

/-- The chip alone loses and regains power: back to its power-up state, the array and the fixture kept
(R71, R281; the test program P5 of `spec/95_test_vectors.md`). -/
def RefChip.powerCycle (c : RefChip) : RefChip :=
  { RefChip.powerUp with mem := c.mem, fixture := c.fixture }

/-- Whether a page address is one REFCHIP answers for (R75, R76, R84). -/
def refPageOk (p : Params) (a : Addr) : Bool :=
  decide (a.toNat % pageSize = 0) && decide (a.toNat < p.capacityBytes)

/-- Whether a frame's bytes after the opcode match its command's shape (R84). -/
def refLengthOk (op : WireOp) (n : Nat) : Bool :=
  match op with
  | .jedec => n == 3 || n == 5
  | .wren | .wrdi | .rdsr1 | .pp | .read | .se | .be32 | .be64 | .ce | .pd | .rpd | .rsten | .rst
  | .mfrDevId => n == wireArgLength op

/-- Whether the first byte begins a frame the chip takes in its present condition (R72 (a), (b),
R79; assumption 19). -/
def refTakes (p : Params) (c : RefChip) (opc : Byte) : Bool :=
  if c.pd then opc == p.opcRpd
  else if c.busyLeft.isBusy then opc == p.opcRdsr1 || opc == p.opcRpd
  else true

/-- The byte an awake chip answers next, given the bytes it has received in this transaction; none
where REFCHIP fixes no byte (R72, R73, R76, R81, R82, R84; assumption 16). MFR_DEV_ID is answered in
every configuration, whatever the probe (DESIGN CHOICE, assumption 31). -/
def refAnswerAwake (p : Params) (c : RefChip) : Option Byte :=
  match c.frame with
  | [] => none
  | opc :: got =>
    if refTakes p c opc then
      match wireOpOf p opc with
      | none => some 0xFF
      | some .rdsr1 => some (refStatusByte c.wel c.busyLeft.isBusy)
      | some .read =>
        match got with
        | hi :: mid :: lo :: data =>
          if refPageOk p (addrOfBytes hi mid lo) && decide (data.length < 256) then
            some (c.mem.read ((addrOfBytes hi mid lo).toNat + data.length))
          else none
        | _ => none
      | some .jedec => (refJedecBytes c.fixture)[got.length]?
      | some .mfrDevId => (refMfrBytes c.fixture)[got.length]?
      | some _ => none
    else some 0xFF

/-- The byte the chip answers next: while it is powered down, 0xFF "to everything" (R72 (a), the
fixture of P4 in `spec/95_test_vectors.md`), the opcode's own exchange among it. -/
def refAnswer (p : Params) (c : RefChip) : Option Byte :=
  if c.pd then some 0xFF else refAnswerAwake p c

/-- The chip takes in one more byte; producing a busy status byte uses up one busy sample (R73). -/
def refShift (p : Params) (c : RefChip) (out : Byte) : RefChip :=
  match c.frame with
  | [] => { c with frame := [out] }
  | opc :: got =>
    if refTakes p c opc && opc == p.opcRdsr1 then
      { c with frame := opc :: (got ++ [out]), busyLeft := c.busyLeft.afterSample }
    else { c with frame := opc :: (got ++ [out]) }

/-- An accepted program: `mem[A + i] <- mem[A + i] AND d[i]`, then the latch clears and the chip is
busy (R75); with the latch clear the frame is ignored. -/
def refProgram (c : RefChip) (a : Addr) (data : List Byte) : RefChip :=
  if c.wel then
    { c with mem := c.mem.program a.toNat data, wel := false, busyLeft := c.fixture.busyPp,
             rsten := false }
  else c

/-- An accepted erase of the unit containing `a` (R77); with the latch clear it is ignored. -/
def refErase (c : RefChip) (a : Addr) (unit : Nat) (busy : BusyLeft) : RefChip :=
  if c.wel then
    { c with mem := c.mem.eraseRange (a.toNat - a.toNat % unit) unit, wel := false,
             busyLeft := busy, rsten := false }
  else c

/-- An accepted chip erase (R78): every byte 0xFF. -/
def refEraseChip (c : RefChip) : RefChip :=
  if c.wel then
    { c with mem := [], wel := false, busyLeft := c.fixture.busyCe, rsten := false }
  else c

/-- An accepted RST (R80): takes effect only when armed. -/
def refRst (c : RefChip) : RefChip :=
  if c.rsten then { c with wel := false, busyLeft := .samples 0, pd := false, rsten := false } else c

/-- The address of an addressed frame. -/
def refArgAddr (args : List Byte) : Addr :=
  addrOfBytes (args.getD 0 0) (args.getD 1 0) (args.getD 2 0)

/-- What a taken frame of the right length does at DESEL (R73 to R82); none where REFCHIP refuses
(R84). Every accepted frame but RST clears `rsten` (R72). -/
def refAct (p : Params) (c : RefChip) (op : WireOp) (args : List Byte) : Option RefChip :=
  match op with
  | .wren => some { c with wel := true, rsten := false }
  | .wrdi => some { c with wel := false, rsten := false }
  | .rdsr1 | .jedec | .mfrDevId => some { c with rsten := false }
  | .pp =>
    if refPageOk p (refArgAddr args) then some (refProgram c (refArgAddr args) (args.drop 3))
    else none
  | .read => if refPageOk p (refArgAddr args) then some { c with rsten := false } else none
  | .se =>
    if (refArgAddr args).toNat < p.capacityBytes then
      some (refErase c (refArgAddr args) sectorSize c.fixture.busySe)
    else none
  | .be32 =>
    if (refArgAddr args).toNat < p.capacityBytes then
      some (refErase c (refArgAddr args) block32Size c.fixture.busyBe32)
    else none
  | .be64 =>
    if (refArgAddr args).toNat < p.capacityBytes then
      some (refErase c (refArgAddr args) block64Size c.fixture.busyBe64)
    else none
  | .ce => some (refEraseChip c)
  | .pd => some { c with pd := true, rsten := false }
  | .rpd => some { c with pd := false, rsten := false }
  | .rsten => some { c with rsten := true }
  | .rst => some (refRst c)

/-- The end of a transaction: the frame takes effect (R72: "A write-type frame takes effect at
DESEL"), is ignored, or is refused (none). -/
def refEnd (p : Params) (c : RefChip) : Option RefChip :=
  match c.frame with
  | [] => some c
  | opc :: args =>
    if refTakes p c opc then
      match wireOpOf p opc with
      | none => some { c with frame := [] }
      | some op =>
        if refLengthOk op args.length then refAct p { c with frame := [] } op args else none
    else some { c with frame := [] }

end Sys2Proof.Machine
end

