-- ==== Sys2Proof/Machine/Ops.lean ====
section
/-! DEFINITION. The primitives of `spec/00_scope.md` R12 over the state: the transport (R120 to R122),
the frame (R125), the busy sample (R126), the guarded frame (R127), the timer (R255, R257), the
acceptance of a request (R31) and the end of an operation (R13, R247). -/

namespace Sys2Proof.Machine

/-! ## The environment's answers -/

/-- The byte an unconstrained bus answers: the next scripted one, else a free one (R122, U1). -/
def Env.drawByte (e : Env) : Byte :=
  match e.busIn with
  | b :: _ => b
  | [] => Config.freeBusByte e.draws

/-- The environment after that answer. -/
def Env.afterByte (e : Env) : Env := { e with busIn := e.busIn.drop 1, draws := e.draws + 1 }

/-- The device's answer to a byte: REFCHIP's where it fixes one, else any (R122, R70). -/
def Env.answer (p : Params) (e : Env) : Byte :=
  match e.bus with
  | .anyDevice => e.drawByte
  | .refChip => (refAnswer p e.chip).getD e.drawByte

/-- The environment after exchanging a byte. -/
def Env.exchange (p : Params) (out : Byte) (e : Env) : Env :=
  match e.bus with
  | .anyDevice => e.afterByte
  | .refChip =>
    match refAnswer p e.chip with
    | none => { e.afterByte with chip := refShift p e.chip out }
    | some _ => { e with chip := refShift p e.chip out }

/-- A transaction begins at the device. -/
def Env.select (e : Env) : Env :=
  match e.bus with
  | .anyDevice => e
  | .refChip => { e with chip := { e.chip with frame := [] } }

/-- A transaction ends at the device. A frame REFCHIP refuses (R84) leaves an unconstrained device:
from then on any byte may come back, so nothing more can be proved of the chip (assumption 15). -/
def Env.deselect (p : Params) (e : Env) : Env :=
  match e.bus with
  | .anyDevice => e
  | .refChip =>
    match refEnd p e.chip with
    | some c => { e with chip := c }
    | none => { e with bus := .anyDevice, chip := { e.chip with frame := [] } }

/-- The advance of the millisecond count before a reading: the next scripted one, else a free one
(R256 (a): never negative). -/
def Env.drawAdvance (e : Env) : Nat :=
  match e.msIn with
  | n :: _ => n
  | [] => Config.freeAdvance e.draws

/-- The environment after a reading of the counter. -/
def Env.afterReading (e : Env) : Env :=
  { e with msIn := e.msIn.drop 1, draws := e.draws + 1, msCount := e.msCount + e.drawAdvance }

/-! ## Events -/

/-- Append one event to the trace (R12). -/
def emit (ev : Event) (s : State) : State := { s with trace := s.trace ++ [ev] }

/-- `Select()`: hands `bus_cfg` and `cs_id` to the transport, then `cs_n <- 0` (R120). -/
def select (s : State) : State :=
  emit (.sel s.csId s.busCfg) { s with csN := false, env := s.env.select }

/-- `Deselect()`: `cs_n <- 1` (R121). The byte counter `idx` has no meaning outside a frame (R27):
from here it is a free value, a fresh one for each frame (assumption 14). -/
def deselect (s : State) : State :=
  emit (.desel s.csId)
    { s with csN := true, idx := Config.freeIdx s.trace.length, env := s.env.deselect s.params }

/-- `Xchg(out) -> in`: the byte that comes back, and the state after the exchange (R122). -/
def xchg (out : Byte) (s : State) : Byte × State :=
  (s.env.answer s.params,
   emit (.x out (s.env.answer s.params)) { s with env := s.env.exchange s.params out })

/-- Exchange bytes whose answers are discarded (R125, R97). -/
def sendBytes : List Byte → State → State
  | [], s => s
  | b :: bs, s => sendBytes bs (xchg b s).2

/-- Exchange `n` dummy bytes and capture the answers (R125, R97). -/
def recvBytes : Nat → State → List Byte × State
  | 0, s => ([], s)
  | n + 1, s => ((xchg dummyByte s).1 :: (recvBytes n (xchg dummyByte s).2).1,
                 (recvBytes n (xchg dummyByte s).2).2)

/-- `Frame(opc, tx, nrx) -> rx` (R125): one whole transaction. -/
def frame (opc : Byte) (tx : List Byte) (nrx : Nat) (s : State) : List Byte × State :=
  let r := recvBytes nrx (sendBytes (opc :: tx) (select s))
  (r.1, deselect r.2)

/-- `StatusBusy()` (R126): one RDSR1 transaction, its bit 0, and `wstate`. -/
def statusBusy (s : State) : Bool × State :=
  let r := frame s.params.opcRdsr1 [] 1 s
  let b := busyBit (r.1.getD 0 0)
  (b, { r.2 with wstate := wstateOfSample b })

/-- `Guarded(opc, tx, nrx)` (R127): none is BUSY, with no byte of the frame sent; some is OK with the
received bytes. Those are its only two statuses. -/
def guarded (opc : Byte) (tx : List Byte) (nrx : Nat) (s : State) : Option (List Byte) × State :=
  let g := statusBusy s
  if g.1 then (none, g.2)
  else
    let r := frame opc tx nrx g.2
    (some r.1, r.2)

/-- Issue one wire command, "a single data-driven dispatch" over the table of R106: with its guard
where the table says so. -/
def issue (op : WireOp) (tx : List Byte) (nrx : Nat) (s : State) : Option (List Byte) × State :=
  if wireGuarded op then guarded (s.params.opc op) tx nrx s
  else
    let r := frame (s.params.opc op) tx nrx s
    (some r.1, r.2)

/-- `NowMs() -> t` (R255): the counter's reading. -/
def nowMs (s : State) : Millis × State :=
  (readingOf s.env.afterReading.msCount,
   emit (.t (readingOf s.env.afterReading.msCount)) { s with env := s.env.afterReading })

/-- `DelayUs(n)` (R257): "in the untimed model a delay is only an event in the trace". -/
def delayUs (n : Nat) (s : State) : State := emit (.d n) s

/-! ## Operations inside an operation -/

/-- A body's status and the state it leaves. -/
abbrev Result := Status × State

/-- Go on only after OK; any other status is passed through unchanged (R248). -/
def andThen (r : Result) (k : State → Result) : Result := if r.1 = .ok then k r.2 else r

/-- Issue a command and, when its frame was sent, write what follows from the received bytes; BUSY
otherwise, with nothing written (R127, R247). -/
def issueThen (op : WireOp) (tx : List Byte) (nrx : Nat) (write : List Byte → State → State)
    (s : State) : Result :=
  match issue op tx nrx s with
  | (some rx, s') => (.ok, write rx s')
  | (none, s') => (.busy, s')

/-! ## Beginning and ending an operation -/

/-- Acceptance of a request (R31): the operand registers are latched (R30), `rsp_valid` is cleared
and the phase becomes RUN(op, 0). -/
def accept (w : RequestWord) (s : State) : State :=
  { s with
    reqOp := reqOpField w, reqAddr := reqAddrField w, reqHold := reqHoldField w,
    reqTimeout := reqTimeoutField w, reqCsId := reqCsIdField s.params w,
    rspValid := false, phase := .run (reqOpField w) .start }

/-- `return st`, the end of an operation (R13, R33, R34) and the block's only analogue of an
exception (R247): it sets the result registers and leaves everything else as it stands, the scratch
registers `t0` and `probe[]` among it (DESIGN CHOICE, assumption 30). -/
def finish (st : Status) (s : State) : State :=
  { s with rspStatus := st, rspValid := true, phase := .idle }

/-- End with a body's status. -/
def finishWith (r : Result) : State := finish r.1 r.2

/-- Hardware reset of the block (R41, R270 (a)): every state element of the block at its reset
value; nothing is sent, the chip is not reset, and what is the host's stays. -/
def hardReset (s : State) : State :=
  { State.resetWith s.params with
    pb := s.pb, trace := s.trace, hostIn := s.hostIn, env := s.env }

/-- A power cycle of the chip alone: the block is not touched, so that the mirror and the chip's latch
may disagree afterwards (R39, R281). -/
def chipPowerCycle (s : State) : State :=
  { s with env := { s.env with chip := s.env.chip.powerCycle } }

/-! ## The host's side -/

/-- `req_ready` (R31). -/
def reqReady (s : State) : Bool := decide (s.phase = .idle)

/-- `req_valid` (R31): a request is presented and waits at the host. -/
def reqValid (s : State) : Bool :=
  match s.hostIn with
  | .request _ :: _ => true
  | _ => false

/-- The operation the latched operand registers select (R24, R30). -/
def latchedInstr (op : BitVec 4) (s : State) : Instr :=
  instrOfOperands op s.reqHold s.reqAddr s.reqTimeout s.reqCsId

/-- A host's read of a result register: before any operation has written it, "a model must treat a
read before that as a fault" (R41, U3). -/
def readResult (r : ResultReg) (s : State) : Except Fault Byte :=
  match r with
  | .rspBusy =>
    if s.rspBusyKnown then .ok ((BitVec.ofBool s.rspBusy).setWidth 8)
    else .error (.unwrittenResult .rspBusy)
  | .idMfr => if s.idKnown then .ok s.idMfr else .error (.unwrittenResult .idMfr)
  | .idType => if s.idKnown then .ok s.idType else .error (.unwrittenResult .idType)
  | .idCap => if s.idKnown then .ok s.idCap else .error (.unwrittenResult .idCap)

end Sys2Proof.Machine
end

