-- ==== Sys2Proof/Machine/Wire.lean ====
section
/-! DEFINITION. The wire commands (`spec/41_wire_commands.md` R140 to R154). A wire command's meaning
is its *Frame*, preceded by its guard where the rule says *Guarded: yes*, with the effects of its
*Block state* line when the frame was sent (assumption 10). It is not a host operation: it writes
no response. The bodies here are what the host operations are built from. -/

namespace Sys2Proof.Machine

/-- WREN and `wel_track <- 1` (R140, R170). -/
def wrenBody : State → Result := issueThen .wren [] 0 fun _ s => { s with welTrack := true }

/-- WRDI and `wel_track <- 0` (R141, R171). -/
def wrdiBody : State → Result := issueThen .wrdi [] 0 fun _ s => { s with welTrack := false }

/-- A program or erase frame, after which `wel_track <- 0` (R143, R145 to R148). -/
def mutateBody (op : WireOp) (tx : List Byte) : State → Result :=
  issueThen op tx 0 fun _ s => { s with welTrack := false }

/-- READ into the page buffer (R144, R181). -/
def readBody (addr : Addr) : State → Result :=
  issueThen .read (addrBytes addr) pageSize fun rx s => { s with pb := pageOfBytes rx }

/-- PD (R149). -/
def pdBody : State → Result := issueThen .pd [] 0 fun _ s => s

/-- RPD, which has no guard (R150). -/
def rpdBody : State → Result := issueThen .rpd [] 0 fun _ s => s

/-- JEDEC with 3 bytes into the id registers (R151, R201). -/
def identBody : State → Result :=
  issueThen .jedec [] jedecLen fun rx s =>
    { s with idMfr := rx.getD 0 0, idType := rx.getD 1 0, idCap := rx.getD 2 0, idKnown := true }

/-- The 5-byte identification read into `probe[]` (R151, R154, R200), which keeps it afterwards
(DESIGN CHOICE, assumption 30). -/
def probeBody (op : WireOp) : State → Result :=
  issueThen op [] idProbeLen fun rx s => { s with probe := probeOfBytes rx }

/-- RSTEN (R152). -/
def rstenBody : State → Result := issueThen .rsten [] 0 fun _ s => s

/-- RST, sent with no guard, and `wel_track <- 0` (R153, R202). -/
def rstBody : State → Result := issueThen .rst [] 0 fun _ s => { s with welTrack := false }

/-! ## The meanings -/

abbrev Out := Host.Outcome State Fault Refusal

/-- R140 -/
def execWren (s : State) : Out := .next (wrenBody s).2

/-- R141 -/
def execWrdi (s : State) : Out := .next (wrdiBody s).2

/-- R142: the status read is `StatusBusy()` itself. -/
def execRdsr1 (s : State) : Out := .next (statusBusy s).2

/-- R143 -/
def execPp (addr : Addr) (data : List Byte) (s : State) : Out :=
  .next (mutateBody .pp (programPayload addr data) s).2

/-- R144 -/
def execRead (addr : Addr) (s : State) : Out := .next (readBody addr s).2

/-- R145 -/
def execSe (addr : Addr) (s : State) : Out := .next (mutateBody .se (addrBytes addr) s).2

/-- R146 -/
def execBe32 (addr : Addr) (s : State) : Out := .next (mutateBody .be32 (addrBytes addr) s).2

/-- R147 -/
def execBe64 (addr : Addr) (s : State) : Out := .next (mutateBody .be64 (addrBytes addr) s).2

/-- R148 -/
def execCe (s : State) : Out := .next (mutateBody .ce [] s).2

/-- R149 -/
def execPd (s : State) : Out := .next (pdBody s).2

/-- R150 -/
def execRpd (s : State) : Out := .next (rpdBody s).2

/-- R151 -/
def execJedec (use : JedecUse) (s : State) : Out :=
  .next (match use with
    | .ident => (identBody s).2
    | .probe => (probeBody .jedec s).2)

/-- R152 -/
def execRsten (s : State) : Out := .next (rstenBody s).2

/-- R153 -/
def execRst (s : State) : Out := .next (rstBody s).2

/-- R154 -/
def execMfrDevId (s : State) : Out := .next (probeBody .mfrDevId s).2

end Sys2Proof.Machine
end

