-- ==== Sys2Proof/Machine/BusyWait.lean ====
section
/-! DEFINITION. BUSY, WAIT_UNTIL_FREE and the reserved op code (`spec/46_busy_wait.md` R220 to R225).
One pass of WAIT_UNTIL_FREE's loop is one step, so that a wait that never ends is an endless run and
not an excluded one (R224, U9; assumption 1). -/

namespace Sys2Proof.Machine

/-- BUSY (R220). -/
def execBusy (s : State) : Out :=
  .next (finish .ok { (statusBusy s).2 with rspBusy := (statusBusy s).1, rspBusyKnown := true })

/-- The deadline has passed (R221): `wstate <- TIMED_OUT` and one confirmatory sample. -/
def waitConfirm (s : State) : State :=
  let c := statusBusy { s with wstate := .timedOut }
  if c.1 then finish .timeout { c.2 with wstate := .timedOut } else finish .ok c.2

/-- One pass of the loop of R221 for operation `op` with timeout `timeout`: sample, then clock, then
delay. -/
def waitPass (op : BitVec 4) (timeout : Millis) (s : State) : State :=
  let b := statusBusy s
  if b.1 then
    let t := nowMs b.2
    if deadlinePassed t.1 t.2.t0 timeout then waitConfirm t.2
    else { delayUs s.params.pollDelayUs t.2 with phase := .run op (.poll timeout) }
  else finish .ok b.2

/-- WAIT_UNTIL_FREE from its first line: `t0 <- NowMs()`, then the first pass (R221). `t0` keeps its
value after the operation (DESIGN CHOICE, assumption 30). -/
def waitBegin (op : BitVec 4) (timeout : Millis) (s : State) : State :=
  waitPass op timeout { (nowMs s).2 with t0 := (nowMs s).1 }

/-- WAIT_UNTIL_FREE (R221). -/
def execWaitUntilFree (timeout : Millis) (s : State) : Out := .next (waitBegin 0xB timeout s)

/-- Op code 0xF (R225): `return NOT_VALID`. -/
def execReservedF (s : State) : Out := .next (finish .notValid s)

end Sys2Proof.Machine
end

