-- ==== Sys2Proof/Machine/WriteEnable.lean ====
section
/-! DEFINITION. ENABLE_WRITING, DISABLE_WRITING and the auto-enable (`spec/42_write_enable_ops.md`
R170 to R172). -/

namespace Sys2Proof.Machine

/-- `AutoEnable()` (R172): nothing is sent when the mirror is set; otherwise ENABLE_WRITING's body,
inline, with its own guard. -/
def autoEnable (s : State) : Result := if s.welTrack then (.ok, s) else wrenBody s

/-- ENABLE_WRITING (R170). -/
def execEnableWriting (s : State) : Out := .next (finishWith (wrenBody s))

/-- DISABLE_WRITING (R171). -/
def execDisableWriting (s : State) : Out := .next (finishWith (wrdiBody s))

/-- The part WRITE_PAGE and the four erases share (R180, R194): write-enable first where the table of
R106 asks for it, then the guarded frame, then `wel_track <- 0`. -/
def mutate (op : WireOp) (tx : List Byte) (s : State) : Result :=
  andThen (if wireNeedsWriteEnable op then autoEnable s else (.ok, s)) (mutateBody op tx)

end Sys2Proof.Machine
end

