-- ==== Sys2Proof/Machine/Erase.lean ====
section
/-! DEFINITION. The four erases (`spec/44_erase_ops.md` R190 to R195). -/

namespace Sys2Proof.Machine

/-- `Erase(opc, tx, T)` (R194): the shared mutating part, then with `hold = 1` WAIT_UNTIL_FREE(T)
inline. `code` is the op code the phase keeps while it waits. -/
def erase (op : WireOp) (tx : List Byte) (code : BitVec 4) (hold : Bool) (timeout : Millis)
    (s : State) : State :=
  let r := mutate op tx s
  if r.1 = .ok then
    if hold then waitBegin code timeout r.2 else finish .ok r.2
  else finish r.1 r.2

/-- ERASE_SECTOR (R190, R195). -/
def execEraseSector (addr : Addr) (hold : Bool) (s : State) : Out :=
  .next (erase .se (addrBytes addr) 0x5 hold s.params.tDefaultMs s)

/-- ERASE_BLOCK32 (R191, R195). -/
def execEraseBlock32 (addr : Addr) (hold : Bool) (s : State) : Out :=
  .next (erase .be32 (addrBytes addr) 0x6 hold s.params.tDefaultMs s)

/-- ERASE_BLOCK64 (R192, R195). -/
def execEraseBlock64 (addr : Addr) (hold : Bool) (s : State) : Out :=
  .next (erase .be64 (addrBytes addr) 0x7 hold s.params.tDefaultMs s)

/-- ERASE_CHIP (R193, R195): no address byte, the longer timeout. -/
def execEraseChip (hold : Bool) (s : State) : Out :=
  .next (erase .ce [] 0x8 hold s.params.tChipEraseMs s)

end Sys2Proof.Machine
end

