-- ==== Sys2Proof/Machine/Lifecycle.lean ====
section
/-! DEFINITION. INIT, GET_JEDEC, RESET, POWER_DOWN, RELEASE_POWER_DOWN
(`spec/45_ident_lifecycle_ops.md` R200 to R204). -/

namespace Sys2Proof.Machine

/-- After OK, the settle delay (R202 to R204, R292). -/
def settle (us : Nat) (s : State) : Result := (.ok, delayUs us s)

/-- RESET's body (R202): RSTEN under one guard, RST at once with nothing between, the settle delay. -/
def resetBody (s : State) : Result :=
  andThen (andThen (rstenBody s) rstBody) (settle s.params.tRstSettleUs)

/-- What INIT writes before anything else: `cs_id`, which has `CS_ID_W` bits, `cs_n`, `bus_cfg`,
`wel_track` (R200, R22). -/
def initConfigure (csId : CsId) (s : State) : State :=
  { s with csId := csIdLow s.params csId, csN := true, busCfg := busConstants s.params, welTrack := false }

/-- The test on the probe's fifth byte, and RESET inline (R200). -/
def initAfterProbe (s : State) : Result :=
  if probeImplausible s.probe then (.communicationFail, s) else resetBody s

/-- INIT's body (R200). -/
def initBody (csId : CsId) (s : State) : Result :=
  andThen (probeBody s.params.idProbe.wireOp (initConfigure csId s)) initAfterProbe

/-- INIT (R200). -/
def execInit (csId : CsId) (s : State) : Out := .next (finishWith (initBody csId s))

/-- GET_JEDEC (R201). -/
def execGetJedec (s : State) : Out := .next (finishWith (identBody s))

/-- RESET (R202). -/
def execReset (s : State) : Out := .next (finishWith (resetBody s))

/-- POWER_DOWN (R203). -/
def execPowerDown (s : State) : Out :=
  .next (finishWith (andThen (pdBody s) (settle s.params.tPdSettleUs)))

/-- RELEASE_POWER_DOWN (R204): no guard, no status read. -/
def execReleasePowerDown (s : State) : Out :=
  .next (finishWith (andThen (rpdBody s) (settle s.params.tPdSettleUs)))

end Sys2Proof.Machine
end

