-- ==== Sys2Proof/Machine/Page.lean ====
section
/-! DEFINITION. WRITE_PAGE and READ_PAGE (`spec/43_page_ops.md` R180, R181). -/

namespace Sys2Proof.Machine

/-- WRITE_PAGE (R180): the 256 bytes of the page buffer, `PB[0]` first, at the address as given. -/
def execWritePage (addr : Addr) (s : State) : Out :=
  .next (finishWith (mutate .pp (programPayload addr s.pb.toList) s))

/-- READ_PAGE (R181). -/
def execReadPage (addr : Addr) (s : State) : Out := .next (finishWith (readBody addr s))

end Sys2Proof.Machine
end

