-- ==== Sys2Proof/Machine/Dispatch.lean ====
section
/-! DEFINITION. One arm per instruction. -/

namespace Sys2Proof.Machine

def exec (i : Instr) (s : State) : Host.Outcome State Fault Refusal :=
  match i with
  -- host requests, R100
  | .init csId => Sys2Proof.Machine.execInit csId s
  | .enableWriting => Sys2Proof.Machine.execEnableWriting s
  | .disableWriting => Sys2Proof.Machine.execDisableWriting s
  | .writePage addr => Sys2Proof.Machine.execWritePage addr s
  | .readPage addr => Sys2Proof.Machine.execReadPage addr s
  | .eraseSector addr hold => Sys2Proof.Machine.execEraseSector addr hold s
  | .eraseBlock32 addr hold => Sys2Proof.Machine.execEraseBlock32 addr hold s
  | .eraseBlock64 addr hold => Sys2Proof.Machine.execEraseBlock64 addr hold s
  | .eraseChip hold => Sys2Proof.Machine.execEraseChip hold s
  | .getJedec => Sys2Proof.Machine.execGetJedec s
  | .busy => Sys2Proof.Machine.execBusy s
  | .waitUntilFree timeout => Sys2Proof.Machine.execWaitUntilFree timeout s
  | .reset => Sys2Proof.Machine.execReset s
  | .powerDown => Sys2Proof.Machine.execPowerDown s
  | .releasePowerDown => Sys2Proof.Machine.execReleasePowerDown s
  | .reservedF => Sys2Proof.Machine.execReservedF s
  -- wire commands, R95
  | .wren => Sys2Proof.Machine.execWren s
  | .wrdi => Sys2Proof.Machine.execWrdi s
  | .rdsr1 => Sys2Proof.Machine.execRdsr1 s
  | .pp addr data => Sys2Proof.Machine.execPp addr data s
  | .read addr => Sys2Proof.Machine.execRead addr s
  | .se addr => Sys2Proof.Machine.execSe addr s
  | .be32 addr => Sys2Proof.Machine.execBe32 addr s
  | .be64 addr => Sys2Proof.Machine.execBe64 addr s
  | .ce => Sys2Proof.Machine.execCe s
  | .pd => Sys2Proof.Machine.execPd s
  | .rpd => Sys2Proof.Machine.execRpd s
  | .jedec use => Sys2Proof.Machine.execJedec use s
  | .rsten => Sys2Proof.Machine.execRsten s
  | .rst => Sys2Proof.Machine.execRst s
  | .mfrDevId => Sys2Proof.Machine.execMfrDevId s

end Sys2Proof.Machine
end

