-- ==== Sys2Proof/Machine/Port.lean ====
section
/-! DEFINITION. What one step does, given the block's phase and the host's next action
(`spec/10_state.md` R24, R31): `step` is `advance`. -/

namespace Sys2Proof.Machine

/-- The block is idle and the host acts (R31, R37, R41). With nothing presented the block stays as
it is. -/
def idleStep (s : State) : Host.Outcome State Fault Refusal :=
  match s.hostIn with
  | [] => .next s
  | .request w :: rest => exec (decodeRequest s.params w) (accept w { s with hostIn := rest })
  | .setPB buf :: rest => .next { s with pb := buf, hostIn := rest }
  | .readResult r :: rest =>
    match readResult r s with
    | .ok _ => .next { s with hostIn := rest }
    | .error f => .fault f
  | .hardReset :: rest => .next (hardReset { s with hostIn := rest })
  | .chipPowerCycle :: rest => .next (chipPowerCycle { s with hostIn := rest })
  | .frame bytes :: rest =>
    match decodeFrame s.params bytes with
    | .ok i => exec i { s with hostIn := rest }
    | .error r => .refused (.notAFrame r)

/-- The block is in an operation: at its first line it runs it; in WAIT_UNTIL_FREE's loop it makes
one pass (R24, R221). -/
def runStep (op : BitVec 4) (k : Line) (s : State) : Host.Outcome State Fault Refusal :=
  match k with
  | .start => exec (latchedInstr op s) s
  | .poll timeout => .next (waitPass op timeout s)

/-- A hardware reset and a power cycle of the chip act in any phase (R270, R39); everything else the
host does waits until the block is idle (R31, R284). When the two can come in a wait is left open, and the
model settles it: only the head of the host's list acts, so one listed right behind the request comes
after the first pass, one listed behind another pending action when the operation has ended
(DESIGN CHOICE, assumptions 8 and 21). -/
def advance (s : State) : Host.Outcome State Fault Refusal :=
  match s.phase with
  | .idle => idleStep s
  | .run op k =>
    match s.hostIn with
    | .hardReset :: rest => .next (hardReset { s with hostIn := rest })
    | .chipPowerCycle :: rest => .next (chipPowerCycle { s with hostIn := rest })
    | [] | .request _ :: _ | .setPB _ :: _ | .readResult _ :: _ | .frame _ :: _ => runStep op k s

/-- The host's action that has the next step run a table word. -/
def wordAction (p : Params) (nbits w : Nat) : HostAction :=
  match tableCode p nbits w with
  | .request r => .request r
  | .frame bytes => .frame bytes

end Sys2Proof.Machine
end

