-- ==== Sys2Proof/Machine/Step.lean ====
section
/-! DEFINITION. The step function, and the state in which it runs a given table word. -/

namespace Sys2Proof.Machine

/-- One step of the machine. -/
def step (s : State) : Host.Outcome State Fault Refusal := advance s

/-- The state in which the very next step runs a word of `spec/opcode_table.json`: the block idle,
and the word the host's next action (assumption 9). -/
def State.withFetchWord (s : State) (nbits w : Nat) : State :=
  { s with phase := .idle, hostIn := wordAction s.params nbits w :: s.hostIn }

end Sys2Proof.Machine
end

