-- ==== Sys2Proof/Safety.lean ====
section
/-! DEFINITION. The terms the statements use: what a transaction looks like in a trace, what a
disciplined trace is, and the invariants of the machine. -/

namespace Sys2Proof.Machine

/-! ## Transactions in a trace -/

/-- The events of one transaction: SEL, one exchange per sent byte with the discarded answers
`disc`, one dummy exchange per received byte, DESEL (R125). -/
def frameEvents (cs : CsId) (cfg : BusCfg) (sent disc recv : List Byte) : List Event :=
  .sel cs cfg :: (List.zipWith Event.x sent disc ++ (recv.map (Event.x dummyByte) ++ [.desel cs]))

/-- The transaction of a wire command in the configuration and on the chip select of `s`. -/
def wireFrame (s : State) (op : WireOp) (tx disc recv : List Byte) : List Event :=
  frameEvents s.csId s.busCfg (s.params.opc op :: tx) disc recv

/-- A status read whose opcode byte was answered by `d` and whose status byte is `b` (R142). -/
def statusFrame (s : State) (d b : Byte) : List Event := wireFrame s .rdsr1 [] [d] [b]

/-- The next status sample reads ready: bit 0 is 0 (R126). -/
abbrev SampleReady (s : State) : Prop := (statusBusy s).1 = false

/-- The next status sample reads busy. -/
abbrev SampleBusy (s : State) : Prop := (statusBusy s).1 = true

/-! ## Pairing (R124) and the closed set of first bytes (R105) -/

/-- Where a trace stands: no transaction open, one just opened, one with at least one byte. -/
inductive BusState where
  | closed | opened | active
  deriving DecidableEq, Repr

/-- One event, if it is allowed there. -/
def busNext (p : Params) : BusState → Event → Option BusState
  | .closed, .sel _ _ => some .opened
  | .closed, .t _ => some .closed
  | .closed, .d _ => some .closed
  | .opened, .x out _ => if (wireOpOf p out).isSome then some .active else none
  | .active, .x _ _ => some .active
  | .active, .desel _ => some .closed
  | _, _ => none

/-- A whole trace. -/
def busRun (p : Params) : BusState → List Event → Option BusState
  | b, [] => some b
  | b, ev :: evs =>
    match busNext p b ev with
    | some b' => busRun p b' evs
    | none => none

/-- SEL and DESEL alternate, every exchange lies between them, no timer event does, every
transaction has a byte and its first byte is one of R95's; no transaction is open at the end. -/
abbrev Paired (p : Params) (tr : List Event) : Prop := busRun p .closed tr = some .closed

/-! ## The guard discipline (R106, R127, R202, R280, R290) -/

/-- What the last transaction allows the next one to be. -/
inductive Grant where
  /-- nothing -/
  | none
  /-- a status read of bit 0 = 0 -/
  | ready
  /-- a reset-enable frame -/
  | armed
  deriving DecidableEq, Repr

/-- Where a trace stands, for the discipline. -/
inductive GuardState where
  | closed (g : Grant)
  | opened (g : Grant)
  /-- in a status read, before its status byte -/
  | status
  /-- in a status read, after a status byte of this bit -/
  | sampled (busy : Bool)
  /-- in a command's frame; whether it is RSTEN -/
  | body (rsten : Bool)
  deriving DecidableEq, Repr

/-- Whether a command may begin under a grant: a status read and RPD always, RST only right after
RSTEN, every other command only right after a status read that reported ready; MFR_DEV_ID only in a
configuration that probes with it (R154). -/
def commandAllowed (p : Params) (g : Grant) (op : WireOp) : Bool :=
  match op with
  | .rdsr1 | .rpd => true
  | .rst => g == .armed
  | .mfrDevId => g == .ready && p.idProbe == .mfrDevId
  | .wren | .wrdi | .pp | .read | .se | .be32 | .be64 | .ce | .pd | .jedec | .rsten => g == .ready

/-- One event, if the discipline allows it. -/
def guardNext (p : Params) : GuardState → Event → Option GuardState
  | .closed g, .sel _ _ => some (.opened g)
  | .closed _, .t _ => some (.closed .none)
  | .closed _, .d _ => some (.closed .none)
  | .opened g, .x out _ =>
    match wireOpOf p out with
    | some op =>
      if commandAllowed p g op then
        if op = .rdsr1 then some .status else some (.body (op == .rsten))
      else none
    | none => none
  | .status, .x _ ans => some (.sampled (busyBit ans))
  | .sampled b, .desel _ => some (.closed (if b then .none else .ready))
  | .body r, .x _ _ => some (.body r)
  | .body r, .desel _ => some (.closed (if r then .armed else .none))
  | _, _ => none

/-- A whole trace. -/
def guardRun (p : Params) : GuardState → List Event → Option GuardState
  | g, [] => some g
  | g, ev :: evs =>
    match guardNext p g ev with
    | some g' => guardRun p g' evs
    | none => none

/-- Whether a trace position is between transactions. -/
def GuardState.isClosed : GuardState → Bool
  | .closed _ => true
  | .opened _ | .status | .sampled _ | .body _ => false

/-- "no mutating command may be issued while the chip reports busy": every command of the trace was
begun as the discipline allows, and no transaction is open at its end. -/
abbrev Guarded (p : Params) (tr : List Event) : Prop :=
  (guardRun p (.closed .none) tr).any GuardState.isClosed = true

/-! ## Invariants -/

/-- What holds between two steps (R42 and R23): chip select high, no transaction open and only known
commands sent, no response while an operation runs, the bus configuration its constants, the flash
array in canonical form, the chip-select identifiers of `CS_ID_W` bits (R22, R30). -/
structure Inv (s : State) : Prop where
  params_wf   : s.params.wf = true
  deselected  : s.csN = true
  no_response : s.phase ≠ .idle → s.rspValid = false
  constants   : s.busCfg = busConstants s.params
  paired      : Paired s.params s.trace
  no_frame    : s.env.chip.frame = []
  canonical   : s.env.chip.mem.wf = true
  cs_width    : s.csId < 2 ^ s.params.csIdW ∧ s.reqCsId < 2 ^ s.params.csIdW

/-- The host uses no raw frame (the model's own input, assumption 10). -/
def HostAction.isFrame : HostAction → Bool
  | .frame _ => true
  | .request _ | .setPB _ | .readResult _ | .hardReset | .chipPowerCycle => false

/-- What happens from outside even while an operation runs, when it heads the host's list
(assumption 21). -/
def HostAction.immediate : HostAction → Bool
  | .hardReset | .chipPowerCycle => true
  | .request _ | .setPB _ | .readResult _ | .frame _ => false

/-- The discipline of a machine that is driven by requests alone. -/
structure GuardInv (s : State) : Prop where
  params_wf : s.params.wf = true
  no_raw    : s.hostIn.all (fun a => !a.isFrame) = true
  guarded   : Guarded s.params s.trace

/-! ## Runs -/

/-- An operation that began in an outcome has ended in `t` after some more steps (R8, R224). -/
def EndsIn (o : Host.Outcome State Fault Refusal) (t : State) : Prop :=
  ∃ s n, o = .next s ∧ Host.Core.run Sys2Proof.core n s = .next t ∧ t.phase = .idle

/-! ## The reference chip -/

/-- REFCHIP is attached, idle between transactions, awake, not busy. -/
structure RefReady (s : State) : Prop where
  attached : s.env.bus = .refChip
  awake    : s.env.chip.pd = false
  free     : s.env.chip.busyLeft = .samples 0

/-- Page `a` reads erased. -/
def Memory.pageErased (m : Memory) (a : Nat) : Prop := ∀ i, i < 256 → m.read (a + i) = 0xFF

end Sys2Proof.Machine
end

