-- ==== Sys2Proof/Certificates/Slice0/Obligations.lean ====
section
/-! DEFINITION. The statements for the provers. Each docstring names the rule of `spec/` it comes from.

How they are written: an instruction's statement gives the WHOLE next state as an update of the old
one, so that a field not named is unchanged. What the environment supplies (the byte `d` answered to
a status opcode, the status byte `b`, discarded answers `disc`, received bytes `rx`, the environment
`e` after the step, the meaningless `idx` value `k`) is existentially quantified and tied down by the
trace. What becomes of the flash array behind the bus is stated by the statements that begin with
Flash or Chip. -/

open Sys2Proof Sys2Proof.Machine

/-! ## Encodings -/

/-- Every well-formed instruction is what the decoder reads from its encoding, in every configuration
(`spec/30_encoding.md` R92, R95, R99, R100). Which bits of the word carry INIT's identifier at a width
other than 8 (assumption 7), and that MFR_DEV_ID and the five-byte JEDEC decode whatever the configured
probe is (assumption 32), are the model's choices. -/
def Obligations.DecodeInvertsEncode : Prop :=
  ∀ (p : Params) (i : Instr), p.wf = true → i.wf p = true → decode p (encode p i) = .ok i

/-- Where a frame is read as a command, the command's encoding is that very frame: no bit of a frame is
dropped and no two frames mean the same (R92, R96). That only frames with 0x00 while receiving and the
length of R96 are read, and that either probe is, are the model's (assumptions 26 and 32). -/
def Obligations.EncodeInvertsDecodeOfFrames : Prop :=
  ∀ (p : Params) (bytes : List Byte) (i : Instr), decodeFrame p bytes = .ok i →
    encode p i = .frame bytes ∧ i.wf p = true

/-- R99: the fields of the request word, whatever the reserved bits 58:56 hold. The identifier is the
low `CS_ID_W` bits of `arg`: bits 7:0 of the word at the default width (assumption 7). -/
def Obligations.RequestWordFields : Prop :=
  ∀ (p : Params) (op : BitVec 4) (hold : Bool) (reserved : BitVec 3) (addr : Addr) (arg : BitVec 32),
    let w : RequestWord := op ++ BitVec.ofBool hold ++ reserved ++ addr ++ arg
    reqOpField w = op ∧ reqHoldField w = hold ∧ reqAddrField w = addr ∧ reqTimeoutField w = arg ∧
      reqCsIdField p w = arg.toNat % 2 ^ p.csIdW ∧
      (p.csIdW = 8 → reqCsIdField p w = (w.extractLsb' 0 8).toNat) ∧
      decodeRequest p w = decodeRequest p (requestWord op hold addr arg)

/-- R30, R99, R102: two words with the same op code and the same fields that its row uses are the same
operation. The identifier's bits at a width other than 8 are the model's choice (assumption 7). -/
def Obligations.UnusedRequestFieldsIgnored : Prop :=
  ∀ (p : Params) (w w' : RequestWord), reqOpField w = reqOpField w' →
    let same : Prop := decodeRequest p w = decodeRequest p w'
    (reqOpField w ∈ [1, 2, 9, 10, 12, 13, 14, 15] → same) ∧
    (reqOpField w = 0 → reqCsIdField p w = reqCsIdField p w' → same) ∧
    (reqOpField w ∈ [3, 4] → reqAddrField w = reqAddrField w' → same) ∧
    (reqOpField w ∈ [5, 6, 7] → reqAddrField w = reqAddrField w' →
      reqHoldField w = reqHoldField w' → same) ∧
    (reqOpField w = 8 → reqHoldField w = reqHoldField w' → same) ∧
    (reqOpField w = 11 → reqTimeoutField w = reqTimeoutField w' → same)

/-- R100: the operation of each op code and its operands, over every value of the other fields. -/
def Obligations.OpCodeMap : Prop :=
  ∀ (p : Params) (h : Bool) (a : Addr) (g : BitVec 32),
    decodeRequest p (requestWord 0x0 h a g) = .init (g.toNat % 2 ^ p.csIdW) ∧
    decodeRequest p (requestWord 0x1 h a g) = .enableWriting ∧
    decodeRequest p (requestWord 0x2 h a g) = .disableWriting ∧
    decodeRequest p (requestWord 0x3 h a g) = .writePage a ∧
    decodeRequest p (requestWord 0x4 h a g) = .readPage a ∧
    decodeRequest p (requestWord 0x5 h a g) = .eraseSector a h ∧
    decodeRequest p (requestWord 0x6 h a g) = .eraseBlock32 a h ∧
    decodeRequest p (requestWord 0x7 h a g) = .eraseBlock64 a h ∧
    decodeRequest p (requestWord 0x8 h a g) = .eraseChip h ∧
    decodeRequest p (requestWord 0x9 h a g) = .getJedec ∧
    decodeRequest p (requestWord 0xA h a g) = .busy ∧
    decodeRequest p (requestWord 0xB h a g) = .waitUntilFree g ∧
    decodeRequest p (requestWord 0xC h a g) = .reset ∧
    decodeRequest p (requestWord 0xD h a g) = .powerDown ∧
    decodeRequest p (requestWord 0xE h a g) = .releasePowerDown ∧
    decodeRequest p (requestWord 0xF h a g) = .reservedF

/-- Words and frames written out in `spec/95_test_vectors.md` V2, V3 and V17 decode to what they
stand for there. The opcode bytes are the defaults, general knowledge (assumption 5). V17 gives the row of
MFR_DEV_ID only for a configuration that probes with it; that it decodes at the default configuration
too is the model's choice (assumption 32). -/
def Obligations.WrittenWordsDecode : Prop :=
  decodeRequest .default 0x00000000000000FF = .init 255 ∧
  decodeRequest .default 0x17FFFFFFFFFFFFFF = .enableWriting ∧
  decodeRequest .default 0x30FFFFFF00000000 = .writePage 0xFFFFFF ∧
  decodeRequest .default 0x4FABCDEF00000001 = .readPage 0xABCDEF ∧
  decodeRequest .default 0x5800100000000000 = .eraseSector 0x001000 true ∧
  decodeRequest .default 0x6000800000000000 = .eraseBlock32 0x008000 false ∧
  decodeRequest .default 0x7801000000000000 = .eraseBlock64 0x010000 true ∧
  decodeRequest .default 0x88ABCDEF00000000 = .eraseChip true ∧
  decodeRequest .default 0xB8000001FFFFFFFF = .waitUntilFree 0xFFFFFFFF ∧
  decodeFrame .default [0x06] = .ok .wren ∧
  decodeFrame .default [0x04] = .ok .wrdi ∧
  decodeFrame .default [0x05, 0x00] = .ok .rdsr1 ∧
  decodeFrame .default
    (0x02 :: 0x7F :: 0xFF :: 0x00 :: (List.range 256).map fun i => BitVec.ofNat 8 (255 - i)) =
    .ok (.pp 0x7FFF00 ((List.range 256).map fun i => BitVec.ofNat 8 (255 - i))) ∧
  decodeFrame .default (0x03 :: 0x7F :: 0xFF :: 0x00 :: List.replicate 256 0x00) =
    .ok (.read 0x7FFF00) ∧
  decodeFrame .default [0x20, 0x7F, 0xF0, 0x00] = .ok (.se 0x7FF000) ∧
  decodeFrame .default [0x52, 0xAB, 0xCD, 0xEF] = .ok (.be32 0xABCDEF) ∧
  decodeFrame .default [0xD8, 0xFF, 0x00, 0x00] = .ok (.be64 0xFF0000) ∧
  decodeFrame .default [0xC7] = .ok .ce ∧
  decodeFrame .default [0xB9] = .ok .pd ∧
  decodeFrame .default [0xAB] = .ok .rpd ∧
  decodeFrame .default [0x66] = .ok .rsten ∧
  decodeFrame .default [0x99] = .ok .rst ∧
  decodeFrame .default [0x9F, 0, 0, 0] = .ok (.jedec .ident) ∧
  decodeFrame .default [0x9F, 0, 0, 0, 0, 0] = .ok (.jedec .probe) ∧
  decodeFrame .default [0x90, 0, 0, 0, 0, 0] = .ok .mfrDevId

/-- R93: the three address bytes, as numbers, high byte first; together they are the address, with no
bit masked, shifted or checked. -/
def Obligations.AddressBytesHighFirst : Prop :=
  ∀ a : Addr,
    (addrBytes a).map BitVec.toNat = [a.toNat / 65536, a.toNat / 256 % 256, a.toNat % 256] ∧
    (∀ hi mid lo : Byte, addrBytes (addrOfBytes hi mid lo) = [hi, mid, lo]) ∧
    addrOfBytes (a.extractLsb' 16 8) (a.extractLsb' 8 8) (a.extractLsb' 0 8) = a

/-- R105: a first byte that is no command's opcode is refused by name, whatever follows, and a step
that is handed such a frame does not run. -/
def Obligations.ForeignFirstByteRefused : Prop :=
  ∀ (s : State) (b : Byte) (rest : List Byte) (acts : List HostAction),
    (∀ op : WireOp, s.params.opc op ≠ b) →
    decodeFrame s.params (b :: rest) = .error (.unknownOpcode b) ∧
    (s.phase = .idle → s.hostIn = .frame (b :: rest) :: acts →
      step s = .refused (.notAFrame (.unknownOpcode b)))

/-! ## Reset -/

/-- R41, R270 (a): the values hardware reset gives; nothing is sent, and the page buffer, the chip and
the rest of the environment stay. The registers R41 leaves unspecified are not mentioned. That the
reset acts in every phase, at a step boundary, when it heads the host's list, is the model's choice
(assumption 21), that the trace is kept is its choice too (assumption 4). -/
def Obligations.HardwareResetValues : Prop :=
  ∀ (s : State) (rest : List HostAction), s.hostIn = .hardReset :: rest →
    ∃ t, step s = .next t ∧ t.welTrack = false ∧ t.csId = 0 ∧
      t.busCfg = { clkHz := s.params.spiClkHz, mode := 0, bitOrder := .msbFirst } ∧
      t.phase = .idle ∧ t.wstate = .ready ∧ t.csN = true ∧ t.rspValid = false ∧
      t.rspStatus = .ok ∧ t.trace = s.trace ∧ t.pb = s.pb ∧ t.env = s.env ∧ t.hostIn = rest ∧
      t.params = s.params ∧ ∀ r, readResult r t = .error (.unwrittenResult r)

/-- R41, U3: a host's read of a result register is a fault exactly as long as no operation has
written it since hardware reset: BUSY writes `rsp_busy`, a GET_JEDEC that returns OK the id
registers. -/
def Obligations.UnwrittenResultReadFaults : Prop :=
  (∀ (s : State) (r : ResultReg) (rest : List HostAction), s.phase = .idle →
    s.hostIn = .readResult r :: rest →
    ((if r = .rspBusy then s.rspBusyKnown else s.idKnown) = false →
      step s = .fault (.unwrittenResult r)) ∧
    ((if r = .rspBusy then s.rspBusyKnown else s.idKnown) = true →
      step s = .next { s with hostIn := rest })) ∧
  (∀ s t : State, exec .busy s = .next t → t.rspBusyKnown = true ∧ t.idKnown = s.idKnown) ∧
  (∀ s t : State, exec .getJedec s = .next t →
    t.rspBusyKnown = s.rspBusyKnown ∧
    (t.rspStatus = .ok → t.idKnown = true) ∧ (t.rspStatus ≠ .ok → t.idKnown = s.idKnown))

/-! ## A step -/

/-- R31: a request presented while the block is idle is accepted: the step runs the operation its word
decodes to, in the state with the operand registers latched, `rsp_valid` cleared, the phase RUN(op, 0)
and the request taken. The list from which the word is taken is the model's own (assumption 8), and the
identifier's bits at a width other than 8 its choice (assumption 7). -/
def Obligations.StepRunsDecodedRequest : Prop :=
  ∀ (s : State) (w : RequestWord) (rest : List HostAction), s.phase = .idle →
    s.hostIn = .request w :: rest →
    decode s.params (.request w) = .ok (decodeRequest s.params w) ∧ reqReady s = true ∧ reqValid s = true ∧
    step s = exec (decodeRequest s.params w)
      { s with
        reqOp := reqOpField w, reqAddr := reqAddrField w, reqHold := reqHoldField w,
        reqTimeout := reqTimeoutField w, reqCsId := reqCsIdField s.params w, rspValid := false,
        phase := .run (reqOpField w) .start, hostIn := rest }

/-- The model's own raw frame (assumption 10): a step runs the command the frame decodes to. -/
def Obligations.StepRunsDecodedFrame : Prop :=
  ∀ (s : State) (bytes : List Byte) (i : Instr) (rest : List HostAction), s.phase = .idle →
    s.hostIn = .frame bytes :: rest → decode s.params (.frame bytes) = .ok i →
    step s = exec i { s with hostIn := rest }

/-- R31, R284: while an operation waits, what the host presents stays pending: it is neither
accepted nor dropped, the operand registers keep their values and the page buffer is not written.
The loop pass is all that the step does; that a pass is a step, and what comes between passes, are the
model's choices (assumptions 1 and 21). -/
def Obligations.RequestPendsWhileWaiting : Prop :=
  ∀ (s : State) (op : BitVec 4) (timeout : Millis), s.phase = .run op (.poll timeout) →
    (∀ a ∈ s.hostIn.head?, a.immediate = false) →
    reqReady s = false ∧ ∃ t, step s = .next t ∧ t.hostIn = s.hostIn ∧ t.reqOp = s.reqOp ∧
      t.reqAddr = s.reqAddr ∧ t.reqHold = s.reqHold ∧ t.reqTimeout = s.reqTimeout ∧
      t.reqCsId = s.reqCsId ∧ t.pb = s.pb ∧ t.t0 = s.t0

/-- An idle block with nothing presented stays as it is, a host's write of its page buffer changes
that buffer alone, and a power cycle of the chip alone changes no register of the block
(R31, R37, R39, R281; the list of host actions is the model's own, assumption 8). That the power cycle
puts the chip at R71's power-up state with its array and fixture kept, as in program P5, is the model's
choice (assumption 21). -/
def Obligations.IdleBlockWaitsForHost : Prop :=
  ∀ s : State, s.phase = .idle →
    (s.hostIn = [] → step s = .next s) ∧
    (∀ buf rest, s.hostIn = .setPB buf :: rest → step s = .next { s with pb := buf, hostIn := rest }) ∧
    (∀ rest, s.hostIn = .chipPowerCycle :: rest → step s = .next
      { s with
        hostIn := rest
        env := { s.env with chip := { RefChip.powerUp with
          mem := s.env.chip.mem, fixture := s.env.chip.fixture } } })

/-- A word of the opcode table placed where the machine after reset takes its next instruction is what
the next step runs. A wire row's word is a raw frame, the model's own input (assumptions 9, 10). That a
table word stands for the operation with zero operand words, JEDEC's for its three-byte use, is the
model's (assumption 27). -/
def Obligations.FetchedWordRunsNext : Prop :=
  ∀ (nbits w : Nat) (i : Instr), decodeTableWord nbits w = some i →
    step (State.reset.withFetchWord nbits w) =
      exec i (if nbits = 64 then accept (BitVec.ofNat 64 w) State.reset else State.reset)

/-! ## The wire commands -/

/-- R126, R142: one status-register-1 read, its bit 0, and `wstate`; nothing else of the block
changes. That the command RDSR1 alone, sent by no host operation, is that same step and writes no response
is the model's choice (assumption 10). -/
def Obligations.StatusReadSamplesBusyBit : Prop :=
  ∀ s : State, ∃ (d b : Byte) (e : Env) (k : Byte),
    let t : State :=
      { s with
        csN := true, idx := k, wstate := if b.getLsbD 0 then .busy else .ready
        trace := s.trace ++ statusFrame s d b, env := e }
    statusBusy s = (b.getLsbD 0, t) ∧ exec .rdsr1 s = .next t

/-- R140, R141, R148, R149, R152: a guarded one-byte command, when the guard reads ready, is the
status read and then the opcode alone, and changes only what its *Block state* line says. That a
command alone, sent by no host operation, writes the mirror, and that CE is sent with the mirror clear
and no WREN before it, is the model's choice (assumption 10). -/
def Obligations.GuardedBareCommandsSend : Prop :=
  ∀ s : State, SampleReady s → ∃ (d b : Byte), busyBit b = false ∧
    (∃ (disc k : Byte) (e : Env), exec .wren s = .next
      { s with
        welTrack := true, wstate := .ready, csN := true, idx := k
        trace := s.trace ++ statusFrame s d b ++ wireFrame s .wren [] [disc] [], env := e }) ∧
    (∃ (disc k : Byte) (e : Env), exec .wrdi s = .next
      { s with
        welTrack := false, wstate := .ready, csN := true, idx := k
        trace := s.trace ++ statusFrame s d b ++ wireFrame s .wrdi [] [disc] [], env := e }) ∧
    (∃ (disc k : Byte) (e : Env), exec .ce s = .next
      { s with
        welTrack := false, wstate := .ready, csN := true, idx := k
        trace := s.trace ++ statusFrame s d b ++ wireFrame s .ce [] [disc] [], env := e }) ∧
    (∃ (disc k : Byte) (e : Env), exec .pd s = .next
      { s with
        wstate := .ready, csN := true, idx := k
        trace := s.trace ++ statusFrame s d b ++ wireFrame s .pd [] [disc] [], env := e }) ∧
    (∃ (disc k : Byte) (e : Env), exec .rsten s = .next
      { s with
        wstate := .ready, csN := true, idx := k
        trace := s.trace ++ statusFrame s d b ++ wireFrame s .rsten [] [disc] [], env := e })

/-- R150, R153: RPD and RST are sent with no status read before them, in every state. R153 clears the
mirror in RESET; that the frame alone clears it is the model's choice (assumption 10). -/
def Obligations.UnguardedCommandsSend : Prop :=
  ∀ s : State,
    (∃ (disc k : Byte) (e : Env), exec .rpd s = .next
      { s with csN := true, idx := k, trace := s.trace ++ wireFrame s .rpd [] [disc] [], env := e }) ∧
    (∃ (disc k : Byte) (e : Env), exec .rst s = .next
      { s with
        welTrack := false, csN := true, idx := k
        trace := s.trace ++ wireFrame s .rst [] [disc] [], env := e })

/-- R143, R145 to R147: an addressed command, when the guard reads ready, sends the address high byte
first and unchanged (and PP its payload in order), and clears the mirror. That a command alone is sent
with the mirror clear and no WREN before it is the model's choice (assumption 10). -/
def Obligations.AddressedCommandsSend : Prop :=
  ∀ (s : State) (a : Addr) (data : List Byte), SampleReady s → ∃ (d b : Byte), busyBit b = false ∧
    (∃ (disc : List Byte) (k : Byte) (e : Env), disc.length = 4 ∧ exec (.se a) s = .next
      { s with
        welTrack := false, wstate := .ready, csN := true, idx := k
        trace := s.trace ++ statusFrame s d b ++ wireFrame s .se (addrBytes a) disc [], env := e }) ∧
    (∃ (disc : List Byte) (k : Byte) (e : Env), disc.length = 4 ∧ exec (.be32 a) s = .next
      { s with
        welTrack := false, wstate := .ready, csN := true, idx := k
        trace := s.trace ++ statusFrame s d b ++ wireFrame s .be32 (addrBytes a) disc [], env := e }) ∧
    (∃ (disc : List Byte) (k : Byte) (e : Env), disc.length = 4 ∧ exec (.be64 a) s = .next
      { s with
        welTrack := false, wstate := .ready, csN := true, idx := k
        trace := s.trace ++ statusFrame s d b ++ wireFrame s .be64 (addrBytes a) disc [], env := e }) ∧
    (∃ (disc : List Byte) (k : Byte) (e : Env), disc.length = 4 + data.length ∧
      exec (.pp a data) s = .next
      { s with
        welTrack := false, wstate := .ready, csN := true, idx := k
        trace := s.trace ++ statusFrame s d b ++ wireFrame s .pp (addrBytes a ++ data) disc []
        env := e })

/-- R144: READ, when the guard reads ready, clocks out 256 bytes with the dummy byte driven and stores
them in arrival order in the page buffer. The command alone is the model's own input
(assumption 10). -/
def Obligations.ReadCommandStoresPage : Prop :=
  ∀ (s : State) (a : Addr), SampleReady s →
    ∃ (d b : Byte) (disc rx : List Byte) (k : Byte) (e : Env) (buf : PageBuffer),
      busyBit b = false ∧ disc.length = 4 ∧ buf.toList = rx ∧
      exec (.read a) s = .next
        { s with
          pb := buf, wstate := .ready, csN := true, idx := k
          trace := s.trace ++ statusFrame s d b ++ wireFrame s .read (addrBytes a) disc rx, env := e }

/-- R151, R154: the identification reads, when the guard reads ready: three bytes into the id
registers, or five into `probe[]`, in arrival order. The commands alone are the model's own input
(assumption 10), in every configuration (assumption 32); that three bytes count as a write of the id
registers is assumption 13, that MFR_DEV_ID stores into `probe[]` assumption 28. -/
def Obligations.IdentificationCommandsStore : Prop :=
  ∀ s : State, SampleReady s → ∃ (d b : Byte), busyBit b = false ∧
    (∃ (disc k r0 r1 r2 : Byte) (e : Env), exec (.jedec .ident) s = .next
      { s with
        idMfr := r0, idType := r1, idCap := r2, idKnown := true, wstate := .ready, csN := true
        idx := k
        trace := s.trace ++ statusFrame s d b ++ wireFrame s .jedec [] [disc] [r0, r1, r2]
        env := e }) ∧
    (∃ (disc k : Byte) (five : Vector Byte 5) (e : Env), exec (.jedec .probe) s = .next
      { s with
        probe := five, wstate := .ready, csN := true, idx := k
        trace := s.trace ++ statusFrame s d b ++ wireFrame s .jedec [] [disc] five.toList
        env := e }) ∧
    (∃ (disc k : Byte) (five : Vector Byte 5) (e : Env), exec .mfrDevId s = .next
      { s with
        probe := five, wstate := .ready, csN := true, idx := k
        trace := s.trace ++ statusFrame s d b ++ wireFrame s .mfrDevId [] [disc] five.toList
        env := e })

/-- R127, R106: when the guard reads busy, no guarded command sends a byte: the status read is all
that happens. The commands alone are the model's own input (assumption 10). -/
def Obligations.GuardedCommandsStopWhenBusy : Prop :=
  ∀ s : State, SampleBusy s → ∃ (d b k : Byte) (e : Env), busyBit b = true ∧
    ∀ (i : Instr) (op : WireOp), commandOf i = some op → op ∉ [.rdsr1, .rpd, .rst] →
      exec i s = .next
        { s with
          wstate := .busy, csN := true, idx := k, trace := s.trace ++ statusFrame s d b, env := e }

/-! ## The host operations -/

/-- R127, R130, R247 (and X5): a guarded operation whose first status sample reads busy returns BUSY
after that one status read; the mirror, the page buffer and the id registers keep their values.
INIT is stated on its own. -/
def Obligations.GuardedRequestsReturnBusy : Prop :=
  ∀ s : State, SampleBusy s → ∃ (d b k : Byte) (e : Env), busyBit b = true ∧
    ∀ i : Instr,
      (i ∈ [.enableWriting, .disableWriting, .getJedec, .reset, .powerDown] ∨
        (∃ a, i = .writePage a ∨ i = .readPage a) ∨
        (∃ a h, i = .eraseSector a h ∨ i = .eraseBlock32 a h ∨ i = .eraseBlock64 a h) ∨
        (∃ h, i = .eraseChip h)) →
      exec i s = .next
        { s with
          wstate := .busy, csN := true, idx := k, rspStatus := .busy, rspValid := true
          phase := .idle, trace := s.trace ++ statusFrame s d b, env := e }

/-- R170: ENABLE_WRITING sends WREN under a guard and sets the mirror only on OK. -/
def Obligations.EnableWritingSetsMirror : Prop :=
  ∀ s : State, ∃ (d b k : Byte) (e : Env),
    (SampleReady s → busyBit b = false ∧ ∃ disc : Byte, exec .enableWriting s = .next
      { s with
        welTrack := true, wstate := .ready, csN := true, idx := k, rspStatus := .ok
        rspValid := true, phase := .idle
        trace := s.trace ++ statusFrame s d b ++ wireFrame s .wren [] [disc] [], env := e }) ∧
    (SampleBusy s → busyBit b = true ∧ exec .enableWriting s = .next
      { s with
        wstate := .busy, csN := true, idx := k, rspStatus := .busy, rspValid := true
        phase := .idle, trace := s.trace ++ statusFrame s d b, env := e })

/-- R171: DISABLE_WRITING sends WRDI under a guard and clears the mirror only on OK. -/
def Obligations.DisableWritingClearsMirror : Prop :=
  ∀ s : State, ∃ (d b k : Byte) (e : Env),
    (SampleReady s → busyBit b = false ∧ ∃ disc : Byte, exec .disableWriting s = .next
      { s with
        welTrack := false, wstate := .ready, csN := true, idx := k, rspStatus := .ok
        rspValid := true, phase := .idle
        trace := s.trace ++ statusFrame s d b ++ wireFrame s .wrdi [] [disc] [], env := e }) ∧
    (SampleBusy s → busyBit b = true ∧ exec .disableWriting s = .next
      { s with
        wstate := .busy, csN := true, idx := k, rspStatus := .busy, rspValid := true
        phase := .idle, trace := s.trace ++ statusFrame s d b, env := e })

/-- R172: with the mirror clear and the guard ready, WRITE_PAGE and the four erases first do what the
command WREN does and then behave as from that state, whose mirror is set; with the mirror clear and the
guard busy they return BUSY without a WREN. The commands WREN and RDSR1 alone, which serve here to name
the states, are the model's own input (assumption 10). -/
def Obligations.AutoEnableComesFirst : Prop :=
  ∀ (s : State) (a : Addr) (h : Bool), s.welTrack = false →
    (SampleReady s → ∃ s1, exec .wren s = .next s1 ∧ s1.welTrack = true ∧
      exec (.writePage a) s = exec (.writePage a) s1 ∧
      exec (.eraseSector a h) s = exec (.eraseSector a h) s1 ∧
      exec (.eraseBlock32 a h) s = exec (.eraseBlock32 a h) s1 ∧
      exec (.eraseBlock64 a h) s = exec (.eraseBlock64 a h) s1 ∧
      exec (.eraseChip h) s = exec (.eraseChip h) s1) ∧
    (SampleBusy s → ∃ t, exec .rdsr1 s = .next t ∧
      ∀ i ∈ [Instr.writePage a, .eraseSector a h, .eraseBlock32 a h, .eraseBlock64 a h, .eraseChip h],
        exec i s = .next { t with rspStatus := .busy, rspValid := true, phase := .idle })

/-- R282, R247: when the guard of the program or erase frame reads busy after the auto-enable's WREN was
sent, the operation returns BUSY with the mirror set. The command WREN alone, which serves here to name
the state, is the model's own input (assumption 10). -/
def Obligations.BusyAfterAutoEnableKeepsMirror : Prop :=
  ∀ (s s1 : State) (a : Addr) (h : Bool), s.welTrack = false → SampleReady s →
    exec .wren s = .next s1 → SampleBusy s1 →
    ∃ (d b d' b' disc k : Byte) (e : Env), busyBit b = false ∧ busyBit b' = true ∧
      ∀ i ∈ [Instr.writePage a, .eraseSector a h, .eraseBlock32 a h, .eraseBlock64 a h, .eraseChip h],
        exec i s = .next
          { s with
            welTrack := true, wstate := .busy, csN := true, idx := k, rspStatus := .busy
            rspValid := true, phase := .idle
            trace := s.trace ++ statusFrame s d b ++ wireFrame s .wren [] [disc] [] ++
              statusFrame s d' b'
            env := e }

/-- R180, R52, R55: WRITE_PAGE with the mirror set and the guard ready sends the address as given,
aligned or not, in range or not, and the 256 bytes of the page buffer, `PB[0]` first; the mirror is
cleared, and the operation does not wait. -/
def Obligations.WritePageSendsBuffer : Prop :=
  ∀ (s : State) (a : Addr), s.welTrack = true → SampleReady s →
    ∃ (d b : Byte) (disc : List Byte) (k : Byte) (e : Env), busyBit b = false ∧ disc.length = 260 ∧
      exec (.writePage a) s = .next
        { s with
          welTrack := false, wstate := .ready, csN := true, idx := k, rspStatus := .ok
          rspValid := true, phase := .idle
          trace := s.trace ++ statusFrame s d b ++
            wireFrame s .pp (addrBytes a ++ s.pb.toList) disc []
          env := e }

/-- R181: READ_PAGE with the guard ready stores the 256 received bytes in arrival order; the mirror is
neither read nor written; with the guard busy it returns BUSY and the buffer is untouched. -/
def Obligations.ReadPageFillsBuffer : Prop :=
  ∀ (s : State) (a : Addr),
    (SampleReady s → ∃ (d b : Byte) (disc rx : List Byte) (k : Byte) (e : Env) (buf : PageBuffer),
      busyBit b = false ∧ disc.length = 4 ∧ buf.toList = rx ∧
      exec (.readPage a) s = .next
        { s with
          pb := buf, wstate := .ready, csN := true, idx := k, rspStatus := .ok, rspValid := true
          phase := .idle
          trace := s.trace ++ statusFrame s d b ++ wireFrame s .read (addrBytes a) disc rx
          env := e }) ∧
    (SampleBusy s → ∃ (d b k : Byte) (e : Env), busyBit b = true ∧
      exec (.readPage a) s = .next
        { s with
          wstate := .busy, csN := true, idx := k, rspStatus := .busy, rspValid := true
          phase := .idle, trace := s.trace ++ statusFrame s d b, env := e })

/-- R190 to R194: an erase with `hold = 0`, the mirror set and the guard ready, sends its frame,
clears the mirror and returns OK at once: no timer reading, no delay. -/
def Obligations.EraseWithoutHoldReturns : Prop :=
  ∀ (s : State) (a : Addr), s.welTrack = true → SampleReady s → ∃ (d b : Byte), busyBit b = false ∧
    (∃ (disc : List Byte) (k : Byte) (e : Env), disc.length = 4 ∧
      exec (.eraseSector a false) s = .next
      { s with
        welTrack := false, wstate := .ready, csN := true, idx := k, rspStatus := .ok
        rspValid := true, phase := .idle
        trace := s.trace ++ statusFrame s d b ++ wireFrame s .se (addrBytes a) disc [], env := e }) ∧
    (∃ (disc : List Byte) (k : Byte) (e : Env), disc.length = 4 ∧
      exec (.eraseBlock32 a false) s = .next
      { s with
        welTrack := false, wstate := .ready, csN := true, idx := k, rspStatus := .ok
        rspValid := true, phase := .idle
        trace := s.trace ++ statusFrame s d b ++ wireFrame s .be32 (addrBytes a) disc [], env := e }) ∧
    (∃ (disc : List Byte) (k : Byte) (e : Env), disc.length = 4 ∧
      exec (.eraseBlock64 a false) s = .next
      { s with
        welTrack := false, wstate := .ready, csN := true, idx := k, rspStatus := .ok
        rspValid := true, phase := .idle
        trace := s.trace ++ statusFrame s d b ++ wireFrame s .be64 (addrBytes a) disc [], env := e }) ∧
    (∃ (disc k : Byte) (e : Env), exec (.eraseChip false) s = .next
      { s with
        welTrack := false, wstate := .ready, csN := true, idx := k, rspStatus := .ok
        rspValid := true, phase := .idle
        trace := s.trace ++ statusFrame s d b ++ wireFrame s .ce [] [disc] [], env := e })

/-- R194, R195: an erase with `hold = 1`, the mirror set and the guard ready, sends its frame as the
command does and then is WAIT_UNTIL_FREE with the operation's own timeout, `T_DEFAULT_MS` or, for the
whole chip, `T_CHIP_ERASE_MS`; while it waits the phase keeps the erase's op code. That the wait goes on
pass by pass in further steps is the model's choice (assumption 1); the commands alone, which serve here
to name the state, are its own input (assumption 10). -/
def Obligations.EraseWithHoldWaits : Prop :=
  ∀ (s : State) (a : Addr), s.welTrack = true → SampleReady s →
    ∀ (i c : Instr) (code : BitVec 4) (timeout : Millis),
      (i, c, code, timeout) ∈
        [(Instr.eraseSector a true, Instr.se a, 5#4, s.params.tDefaultMs),
         (.eraseBlock32 a true, .be32 a, 6#4, s.params.tDefaultMs),
         (.eraseBlock64 a true, .be64 a, 7#4, s.params.tDefaultMs),
         (.eraseChip true, .ce, 8#4, s.params.tChipEraseMs)] →
      ∃ s1 t, exec c s = .next s1 ∧ s1.welTrack = false ∧ exec (.waitUntilFree timeout) s1 = .next t ∧
        exec i s = .next
          (if t.phase = .idle then t else { t with phase := .run code (.poll timeout) })

/-- R201: GET_JEDEC: three bytes in the order received, into manufacturer, type, capacity, with no
check; on BUSY the id registers keep their values. The mark that the id registers are known is the
model's own (assumption 13). -/
def Obligations.GetJedecReportsBytesInOrder : Prop :=
  ∀ s : State, ∃ (d b k : Byte) (e : Env),
    (SampleReady s → busyBit b = false ∧ ∃ disc r0 r1 r2 : Byte, exec .getJedec s = .next
      { s with
        idMfr := r0, idType := r1, idCap := r2, idKnown := true, wstate := .ready, csN := true
        idx := k, rspStatus := .ok, rspValid := true, phase := .idle
        trace := s.trace ++ statusFrame s d b ++ wireFrame s .jedec [] [disc] [r0, r1, r2]
        env := e }) ∧
    (SampleBusy s → busyBit b = true ∧ exec .getJedec s = .next
      { s with
        wstate := .busy, csN := true, idx := k, rspStatus := .busy, rspValid := true
        phase := .idle, trace := s.trace ++ statusFrame s d b, env := e })

/-- R200: INIT writes its configuration first and keeps it whatever follows; the guarded five-byte probe
with the configured opcode; BUSY on a busy sample; COMMUNICATION_FAIL exactly when the fifth byte is
0x00, with no reset frame; else RESET inline, whose OK is INIT's. `cs_id` holds `CS_ID_W` bits (R22).
The commands alone, which serve here to name the states, are the model's own input, MFR_DEV_ID's bytes
in probe[] its reading (assumptions 10 and 28), and the reset by RESET compares the scratch too
(assumption 30); an identifier wider than CS_ID_W is cut by the model (assumption 7). -/
def Obligations.InitProbesThenResets : Prop :=
  ∀ (s : State) (c : CsId),
    let s1 : State :=
      { s with
        csId := csIdLow s.params c, csN := true, welTrack := false
        busCfg := { clkHz := s.params.spiClkHz, mode := 0, bitOrder := .msbFirst } }
    let probeCmd : Instr := match s.params.idProbe with
      | .jedec => .jedec .probe
      | .mfrDevId => .mfrDevId
    (c < 2 ^ s.params.csIdW → s1.csId = c) ∧
    (SampleBusy s → ∃ t, exec .rdsr1 s1 = .next t ∧
      exec (.init c) s = .next { t with rspStatus := .busy, rspValid := true, phase := .idle }) ∧
    (SampleReady s → ∃ s2, exec probeCmd s1 = .next s2 ∧ s2.csId = s1.csId ∧ s2.welTrack = false ∧
      (s2.probe[4] = 0x00 → exec (.init c) s = .next
        { s2 with rspStatus := .communicationFail, rspValid := true, phase := .idle }) ∧
      (s2.probe[4] ≠ 0x00 → exec (.init c) s = exec .reset s2 ∧
        (SampleReady s2 → ∃ t, exec (.init c) s = .next t ∧ t.rspStatus = .ok ∧ t.csId = s1.csId ∧
          t.busCfg = s1.busCfg ∧ t.welTrack = false ∧ t.phase = .idle)))

/-- R202, R290, R292: RESET sends RSTEN under one guard and RST right after it with no transaction
between, waits the settle time and clears the mirror; on a busy sample it returns BUSY, nothing else
sent. -/
def Obligations.ResetPairIsContiguous : Prop :=
  ∀ s : State, ∃ (d b k : Byte) (e : Env),
    (SampleReady s → busyBit b = false ∧ ∃ disc disc' : Byte, exec .reset s = .next
      { s with
        welTrack := false, wstate := .ready, csN := true, idx := k, rspStatus := .ok
        rspValid := true, phase := .idle
        trace := s.trace ++ statusFrame s d b ++ wireFrame s .rsten [] [disc] [] ++
          wireFrame s .rst [] [disc'] [] ++ [.d s.params.tRstSettleUs]
        env := e }) ∧
    (SampleBusy s → busyBit b = true ∧ exec .reset s = .next
      { s with
        wstate := .busy, csN := true, idx := k, rspStatus := .busy, rspValid := true
        phase := .idle, trace := s.trace ++ statusFrame s d b, env := e })

/-- R203: POWER_DOWN: guarded; the settle delay only when the frame was sent; the mirror unchanged. -/
def Obligations.PowerDownSettlesOnlyWhenSent : Prop :=
  ∀ s : State, ∃ (d b k : Byte) (e : Env),
    (SampleReady s → busyBit b = false ∧ ∃ disc : Byte, exec .powerDown s = .next
      { s with
        wstate := .ready, csN := true, idx := k, rspStatus := .ok, rspValid := true, phase := .idle
        trace := s.trace ++ statusFrame s d b ++ wireFrame s .pd [] [disc] [] ++
          [.d s.params.tPdSettleUs]
        env := e }) ∧
    (SampleBusy s → busyBit b = true ∧ exec .powerDown s = .next
      { s with
        wstate := .busy, csN := true, idx := k, rspStatus := .busy, rspValid := true
        phase := .idle, trace := s.trace ++ statusFrame s d b, env := e })

/-- R204: RELEASE_POWER_DOWN: no guard and no status read at all, in every state; always OK; `wstate`
and the mirror unchanged. -/
def Obligations.ReleasePowerDownIsUnconditional : Prop :=
  ∀ s : State, ∃ (disc k : Byte) (e : Env), exec .releasePowerDown s = .next
    { s with
      csN := true, idx := k, rspStatus := .ok, rspValid := true, phase := .idle
      trace := s.trace ++ wireFrame s .rpd [] [disc] [] ++ [.d s.params.tPdSettleUs], env := e }

/-- R220: BUSY: exactly one status read; bit 0 into `rsp_busy`; the status is always OK. The mark that
rsp_busy is known is the model's own (assumption 13). -/
def Obligations.BusyReportsSample : Prop :=
  ∀ s : State, ∃ (d b k : Byte) (e : Env), exec .busy s = .next
    { s with
      rspBusy := b.getLsbD 0, rspBusyKnown := true
      wstate := if b.getLsbD 0 then .busy else .ready
      csN := true, idx := k, rspStatus := .ok, rspValid := true, phase := .idle
      trace := s.trace ++ statusFrame s d b, env := e }

/-- R225: op code 0xF: NOT_VALID, and nothing else changes. -/
def Obligations.ReservedOpReturnsNotValid : Prop :=
  ∀ s : State, exec .reservedF s =
    .next { s with rspStatus := .notValid, rspValid := true, phase := .idle }

/-- R221, first line and first sample: WAIT_UNTIL_FREE reads the clock once into `t0` and makes the
first pass of its loop (that its first step ends there, and each further pass is a step, is the model's
choice, assumption 1); a chip that is ready at that sample costs one timer reading and one status
read, no delay, and gives OK. -/
def Obligations.WaitReturnsAtReadySample : Prop :=
  ∀ (s : State) (timeout : Millis),
    exec (.waitUntilFree timeout) s =
      runStep 0xB (.poll timeout) { (nowMs s).2 with t0 := (nowMs s).1 } ∧
    (SampleReady (nowMs s).2 → ∃ (d b k : Byte) (e : Env), busyBit b = false ∧
      exec (.waitUntilFree timeout) s = .next
        { s with
          t0 := (nowMs s).1, wstate := .ready, csN := true, idx := k, rspStatus := .ok
          rspValid := true, phase := .idle
          trace := s.trace ++ [.t (nowMs s).1] ++ statusFrame s d b, env := e })

/-- R221, R222: one pass of the loop. A ready sample ends it with OK. After a busy one the clock is
read; up to the timeout, a delay and another pass; beyond it (strictly), TIMED_OUT and one confirmatory
sample, which gives OK if it reads ready and TIMEOUT if not. One pass is one step, which is the model's
choice (assumption 1); the command RDSR1 alone, which serves here to name the state, is its own input
(assumption 10); what is immediate is its choice too (assumption 21). -/
def Obligations.WaitLoopPass : Prop :=
  ∀ (s s1 : State) (op : BitVec 4) (timeout : Millis),
    s.phase = .run op (.poll timeout) → (∀ a ∈ s.hostIn.head?, a.immediate = false) →
    exec .rdsr1 s = .next s1 →
    (SampleReady s → step s = .next { s1 with rspStatus := .ok, rspValid := true, phase := .idle }) ∧
    (SampleBusy s →
      let t := (nowMs s1).1
      let s2 := (nowMs s1).2
      (¬ timeout < t - s.t0 → step s = .next
        { s2 with trace := s2.trace ++ [.d s.params.pollDelayUs] }) ∧
      (timeout < t - s.t0 → ∃ s3, exec .rdsr1 s2 = .next s3 ∧
        (SampleReady s2 → step s = .next
          { s3 with rspStatus := .ok, rspValid := true, phase := .idle }) ∧
        (SampleBusy s2 → step s = .next
          { s3 with wstate := .timedOut, rspStatus := .timeout, rspValid := true, phase := .idle })))

/-- R240, R34, R25, R241, R225: the codes of the five statuses and of the three wait states, and which
operation can return which status, for every environment, however many passes a wait takes (a pass is
a step, assumption 1). -/
def Obligations.StatusMatrix : Prop :=
  ([Status.ok, .communicationFail, .busy, .timeout, .notValid].map fun st => (statusCode st).toNat) =
    [0, 1, 2, 3, 4] ∧
  ([WState.ready, .busy, .timedOut].map fun w => (wstateCode w).toNat) = [0, 1, 2] ∧
  ∀ (i : Instr) (s t : State), s.hostIn = [] → requestCode i ≠ none → EndsIn (exec i s) t →
    match i with
    | .init _ => t.rspStatus ∈ [.ok, .communicationFail, .busy]
    | .eraseSector _ true | .eraseBlock32 _ true | .eraseBlock64 _ true | .eraseChip true =>
      t.rspStatus ∈ [.ok, .busy, .timeout]
    | .busy | .releasePowerDown => t.rspStatus = .ok
    | .waitUntilFree _ => t.rspStatus ∈ [.ok, .timeout]
    | .reservedF => t.rspStatus = .notValid
    | _ => t.rspStatus ∈ [.ok, .busy]

/-! ## Invariants and whole-machine rules -/

/-- Both invariants hold right after reset. Where the trace and the flash array stand, and their
contents at reset, are the model's (assumptions 4 and 17). -/
def Obligations.InvariantsHoldAtReset : Prop := Inv State.reset ∧ GuardInv State.reset

/-- R42, R124, R105, R23: every step from a state with the invariant keeps it: between steps chip select
is high, no transaction is open, SEL and DESEL alternate around known first bytes, no response stands
while an operation runs, the bus configuration is its constants, and the flash array is in canonical
form. The trace in State (assumption 4), the identifiers as numbers (assumption 7) and the array's
canonical form (assumption 17) are the model's. -/
def Obligations.StepKeepsInvariant : Prop :=
  ∀ s t : State, Inv s → step s = .next t → Inv t

/-- R106, R127, R280, R290: a machine driven by requests begins every command but RDSR1, RPD and RST
right after a status read of bit 0 = 0, RST right after RSTEN, with nothing between, for every answer of
the bus and every sequence of requests. The trace in State, kept by a hardware reset (assumption 4), and
the list of host actions (assumption 8) are the model's. -/
def Obligations.StepKeepsGuardDiscipline : Prop :=
  ∀ s t : State, GuardInv s → step s = .next t → GuardInv t

/-- R60, R6, R40: a step only appends to the trace, so that what the chip sees is the concatenation of
the traces, never changes the configuration, and never lets the true count of the timer go back (R256
(a)). That a hardware reset keeps the growing trace is the model's choice (assumption 4), as is the true
count as a number in State (assumption 3). -/
def Obligations.StepOnlyAppends : Prop :=
  ∀ s t : State, step s = .next t →
    t.params = s.params ∧ s.env.msCount ≤ t.env.msCount ∧ ∃ evs, t.trace = s.trace ++ evs

/-- R256 (a), (b), R255: a reading is the true count modulo 2^32, the count never decreases, and
`(t - t0) mod 2^32` is the true elapsed count when that is below 2^32. The true count as a number in
State is the model's (assumption 3). -/
def Obligations.CounterReadsTrueCount : Prop :=
  (∀ s : State, s.env.msCount ≤ (nowMs s).2.env.msCount ∧
    (nowMs s).1.toNat = (nowMs s).2.env.msCount % 2 ^ 32 ∧
    (nowMs s).2.trace = s.trace ++ [.t (nowMs s).1]) ∧
  (∀ c0 c1 : Nat, c0 ≤ c1 → c1 - c0 < 2 ^ 32 →
    (elapsed (readingOf c1) (readingOf c0)).toNat = c1 - c0)

/-- R21: what every instruction leaves in the mirror. Those that never write it; INIT; ENABLE_WRITING,
DISABLE_WRITING and RESET, which write it only on OK; WRITE_PAGE and the four erases, which leave it
when their first guard reads busy, and else leave it clear, but set when they return BUSY at their
second guard. The last three clauses are about wire commands alone (assumption 10). -/
def Obligations.MirrorWriters : Prop :=
  ∀ (i : Instr) (s t : State), exec i s = .next t →
    (i ∈ [.getJedec, .busy, .powerDown, .releasePowerDown, .reservedF, .rdsr1, .pd, .rpd, .rsten,
        .mfrDevId, .jedec .ident, .jedec .probe] ∨ (∃ a, i = .readPage a ∨ i = .read a) ∨
        (∃ T, i = .waitUntilFree T) → t.welTrack = s.welTrack) ∧
    ((∃ c, i = .init c) → t.welTrack = false) ∧
    (i = .enableWriting → t.welTrack = (s.welTrack || t.rspStatus == .ok)) ∧
    (i = .disableWriting ∨ i = .reset → t.welTrack = (s.welTrack && t.rspStatus != .ok)) ∧
    ((∃ a h, i = .writePage a ∨ i = .eraseSector a h ∨ i = .eraseBlock32 a h ∨
        i = .eraseBlock64 a h ∨ i = .eraseChip h) →
      (SampleBusy s → t.welTrack = s.welTrack) ∧
      (SampleReady s → t.welTrack = (decide (t.phase = .idle) && t.rspStatus == .busy))) ∧
    (i = .wren → t.welTrack = (s.welTrack || !(statusBusy s).1)) ∧
    (i = .wrdi ∨ i = .ce ∨ (∃ a data, i = .se a ∨ i = .be32 a ∨ i = .be64 a ∨ i = .pp a data) →
      t.welTrack = (s.welTrack && (statusBusy s).1)) ∧
    (i = .rst → t.welTrack = false)

/-- R223: "never less": a WAIT_UNTIL_FREE that ends in TIMEOUT, after however many passes, has seen
the true count advance by more than the timeout since the reading at its start. So has a held erase
(R194), with its own timeout, since the reading at the start of its wait: after its command was sent,
in `s1`, with the WREN of the auto-enable before it if the mirror was clear (R172). The passes and the
true count are the model's (assumptions 1 and 3). -/
def Obligations.TimeoutIsNeverEarly : Prop :=
  (∀ (s t : State) (timeout : Millis), s.hostIn = [] →
    EndsIn (exec (.waitUntilFree timeout) s) t → t.rspStatus = .timeout →
    (nowMs s).2.env.msCount + timeout.toNat < t.env.msCount) ∧
  (∀ (s s0 s1 t : State) (a : Addr) (i c : Instr) (timeout : Millis), s.hostIn = [] →
    (i, c, timeout) ∈
      [(Instr.eraseSector a true, Instr.se a, s.params.tDefaultMs),
       (.eraseBlock32 a true, .be32 a, s.params.tDefaultMs),
       (.eraseBlock64 a true, .be64 a, s.params.tDefaultMs),
       (.eraseChip true, .ce, s.params.tChipEraseMs)] →
    (if s.welTrack = true then s0 = s else exec .wren s = .next s0) → exec c s0 = .next s1 →
    EndsIn (exec i s) t → t.rspStatus = .timeout →
    (nowMs s1).2.env.msCount + timeout.toNat < t.env.msCount)

/-- R224: if at every reading the counter has advanced, and by no more than the counter can show
without wrapping past the deadline, WAIT_UNTIL_FREE ends, with OK or TIMEOUT, against any device. The
list of advances, one before each reading, is the model's (assumption 3). -/
def Obligations.WaitEndsWhenTimeAdvances : Prop :=
  ∀ (s : State) (timeout : Millis), s.hostIn = [] → timeout.toNat + 2 ≤ s.env.msIn.length →
    (∀ a ∈ s.env.msIn, 1 ≤ a ∧ a + timeout.toNat < 2 ^ 32) →
    ∃ t, EndsIn (exec (.waitUntilFree timeout) s) t ∧ t.rspStatus ∈ [.ok, .timeout]

/-- R224, U9: against an always-busy chip and a counter that does not advance, WAIT_UNTIL_FREE is
still waiting after any number of passes (a pass is a step, assumption 1; the list of advances,
assumption 3). -/
def Obligations.FrozenWaitNeverEnds : Prop :=
  ∀ (s : State) (timeout : Millis) (n : Nat), s.params.wf = true → s.hostIn = [] →
    s.env.bus = .refChip → s.env.chip.pd = false → s.env.chip.busyLeft = .forever →
    n + 2 ≤ s.env.msIn.length → (∀ a ∈ s.env.msIn, a = 0) →
    ∃ s1 t, exec (.waitUntilFree timeout) s = .next s1 ∧
      Host.Core.run Sys2Proof.core n s1 = .next t ∧ t.phase = .run 0xB (.poll timeout)

/-- R287: with the input line reading all zeros INIT returns COMMUNICATION_FAIL, every other defined
operation returns OK, GET_JEDEC `(OK, 0, 0, 0)`, and READ_PAGE fills the buffer with zeros; with it
reading all ones every guarded operation, INIT among them, returns BUSY, BUSY reports 1, and a
WAIT_UNTIL_FREE that ends while the line reads so ends with TIMEOUT. The answers are the model's
scripted list, all of it, at least 300 bytes long (assumption 2), and a pass is a step (assumption 1).
-/
def Obligations.AbsentChipIsSeenOnlyByInit : Prop :=
  ∀ s : State, s.env.bus = .anyDevice → 300 ≤ s.env.busIn.length →
    ((∀ b ∈ s.env.busIn, b = 0x00) →
      (∀ c, ∃ t, exec (.init c) s = .next t ∧ t.phase = .idle ∧ t.rspStatus = .communicationFail) ∧
      (∀ i : Instr, requestCode i ≠ none → (∀ c, i ≠ .init c) → i ≠ .reservedF →
        ∃ t, exec i s = .next t ∧ t.phase = .idle ∧ t.rspStatus = .ok ∧
          (i = .getJedec → t.idMfr = 0 ∧ t.idType = 0 ∧ t.idCap = 0) ∧
          (i = .busy → t.rspBusy = false) ∧
          (∀ a, i = .readPage a → t.pb = Vector.replicate 256 0))) ∧
    ((∀ b ∈ s.env.busIn, b = 0xFF) →
      (∀ i : Instr, requestCode i ≠ none → i ∉ [.busy, .releasePowerDown, .reservedF] →
        (∀ T, i ≠ .waitUntilFree T) →
        ∃ t, exec i s = .next t ∧ t.phase = .idle ∧ t.rspStatus = .busy) ∧
      (∃ t, exec .busy s = .next t ∧ t.rspStatus = .ok ∧ t.rspBusy = true) ∧
      (∀ (timeout : Millis) (n : Nat) (s1 t : State), s.hostIn = [] →
        exec (.waitUntilFree timeout) s = .next s1 →
        Host.Core.run Sys2Proof.core n s1 = .next t → 2 * n + 4 ≤ s.env.busIn.length →
        t.phase = .idle → t.rspStatus = .timeout))

/-! ## The flash array and the reference chip (R70 to R84: environment) -/

/-- R59, R76, R81: in a legal configuration no instruction but a program or an erase changes a byte of
the flash array. For a READ that REFCHIP refuses (R84: misaligned, or at or above the capacity) this rests
on the model's choice (assumption 15); that no instruction changes the recorded chip while an unconstrained
device is attached is its choice too (assumptions 2 and 15). The commands alone are its own input
(assumption 10). -/
def Obligations.FlashUntouchedByOthers : Prop :=
  ∀ (i : Instr) (s t : State), s.params.wf = true → exec i s = .next t →
    (s.env.bus = .anyDevice → t.env.chip = s.env.chip) ∧
    (match i with
      | .writePage _ | .eraseSector _ _ | .eraseBlock32 _ _ | .eraseBlock64 _ _ | .eraseChip _
      | .pp _ _ | .se _ | .be32 _ | .be64 _ | .ce => True
      | _ => ∀ x, t.env.chip.mem.read x = s.env.chip.mem.read x)

/-- R75, R77: in a legal configuration a program changes no byte outside the 256 from its address on,
an erase none outside the unit that contains its address, whether the operation succeeds, waits or is
turned away. For a frame REFCHIP refuses (R84: a misaligned program, an address at or above the
capacity) this rests on the model's choice (assumption 15). The commands alone are the model's own input
(assumption 10). -/
def Obligations.FlashStoresStayInUnit : Prop :=
  ∀ (i : Instr) (s t : State) (x : Nat), s.params.wf = true → exec i s = .next t →
    ∀ (a : Addr) (h : Bool),
      ((i = .writePage a ∨ ∃ data, i = .pp a data) →
        ¬ (a.toNat ≤ x ∧ x < a.toNat + 256) →
        t.env.chip.mem.read x = s.env.chip.mem.read x) ∧
      ((i = .eraseSector a h ∨ i = .se a) →
        ¬ (a.toNat - a.toNat % 4096 ≤ x ∧ x < a.toNat - a.toNat % 4096 + 4096) →
        t.env.chip.mem.read x = s.env.chip.mem.read x) ∧
      ((i = .eraseBlock32 a h ∨ i = .be32 a) →
        ¬ (a.toNat - a.toNat % 32768 ≤ x ∧ x < a.toNat - a.toNat % 32768 + 32768) →
        t.env.chip.mem.read x = s.env.chip.mem.read x) ∧
      ((i = .eraseBlock64 a h ∨ i = .be64 a) →
        ¬ (a.toNat - a.toNat % 65536 ≤ x ∧ x < a.toNat - a.toNat % 65536 + 65536) →
        t.env.chip.mem.read x = s.env.chip.mem.read x)

/-- R73, R74, R76, R79, R80, R81: the reference chip's answer to every command that leaves the array
alone, a READ within what REFCHIP answers (R76: aligned, below the capacity).
Awake, busy or not, a status read returns bit 1 = latch, bit 0 = busy and zeros above, and uses up one
of the busy samples left, if any. Ready, JEDEC returns its three id bytes, then the fixture's two, and MFR_DEV_ID the bytes of R81
(in every configuration, the model's choice: assumptions 31 and 32); WREN sets the latch and WRDI clears
it; READ and READ_PAGE return the 256 array bytes from the address on; PD powers the chip down, RPD
leaves it awake; RSTEN arms it, and RST acts only when it is armed; RESET, which sends the
pair, clears the latch. Every one of them but RSTEN disarms it. The commands alone are the model's own
input (assumption 10), the bytes of a page that a capacity below 256 cuts its choice (assumption 33). -/
def Obligations.ChipAnswersControlCommands : Prop :=
  ∀ s : State, s.params.wf = true → s.env.bus = .refChip → s.env.chip.pd = false →
    (∃ (d b : Byte) (t : State), exec .rdsr1 s = .next t ∧
      t.trace = s.trace ++ statusFrame s d b ∧
      b.toNat = 2 * s.env.chip.wel.toNat + (if s.env.chip.busyLeft = .samples 0 then 0 else 1) ∧
      t.env.bus = .refChip ∧
      t.env.chip =
        { s.env.chip with
          busyLeft :=
            match s.env.chip.busyLeft with
            | .samples 0 => .samples 0
            | .samples (n + 1) => .samples n
            | .forever => .forever
          rsten := false, frame := [] }) ∧
    (s.env.chip.busyLeft = .samples 0 →
      (∃ t, exec (.jedec .ident) s = .next t ∧ t.idMfr = 0xEF ∧ t.idType = 0x40 ∧ t.idCap = 0x17 ∧
        t.env.bus = .refChip ∧ t.env.chip = { s.env.chip with rsten := false, frame := [] }) ∧
      (∃ t, exec (.jedec .probe) s = .next t ∧
        t.probe.toList =
          [0xEF, 0x40, 0x17, s.env.chip.fixture.idTail3, s.env.chip.fixture.idTail4] ∧
        t.env.bus = .refChip ∧ t.env.chip = { s.env.chip with rsten := false, frame := [] }) ∧
      (∃ t, exec .mfrDevId s = .next t ∧
        t.probe.toList = [0xFF, 0xFF, 0xFF, 0xEF, s.env.chip.fixture.devId] ∧
        t.env.bus = .refChip ∧ t.env.chip = { s.env.chip with rsten := false, frame := [] }) ∧
      (∃ t, exec .wren s = .next t ∧ t.env.bus = .refChip ∧
        t.env.chip = { s.env.chip with wel := true, rsten := false, frame := [] }) ∧
      (∃ t, exec .wrdi s = .next t ∧ t.env.bus = .refChip ∧
        t.env.chip = { s.env.chip with wel := false, rsten := false, frame := [] }) ∧
      (∀ a : Addr, a.toNat % 256 = 0 → a.toNat < s.params.capacityBytes →
        ∀ i ∈ [Instr.read a, .readPage a], ∃ t, exec i s = .next t ∧
          (∀ (k : Nat) (h : k < 256), t.pb[k] = s.env.chip.mem.read (a.toNat + k)) ∧
          t.env.bus = .refChip ∧ t.env.chip = { s.env.chip with rsten := false, frame := [] }) ∧
      (∃ t, exec .pd s = .next t ∧ t.env.bus = .refChip ∧
        t.env.chip = { s.env.chip with pd := true, rsten := false, frame := [] }) ∧
      (∃ t, exec .rpd s = .next t ∧ t.env.bus = .refChip ∧
        t.env.chip = { s.env.chip with pd := false, rsten := false, frame := [] }) ∧
      (∃ t, exec .rsten s = .next t ∧ t.env.bus = .refChip ∧
        t.env.chip = { s.env.chip with rsten := true, frame := [] }) ∧
      (∃ t, exec .rst s = .next t ∧ t.env.bus = .refChip ∧
        t.env.chip = { s.env.chip with
          wel := s.env.chip.wel && !s.env.chip.rsten, rsten := false, frame := [] }) ∧
      (∃ t, exec .reset s = .next t ∧ t.rspStatus = .ok ∧ t.env.bus = .refChip ∧
        t.env.chip = { s.env.chip with wel := false, rsten := false, frame := [] }))

/-- R75: a page program to a ready reference chip whose latch is set leaves in each of the page's 256
bytes the AND of what was there and the byte sent, clears the latch and makes the chip busy; with
the latch clear the array and the latch stay as they were. The command alone is the model's own input
(assumption 10), the bytes of a page that a capacity below 256 cuts its choice (assumption 33). -/
def Obligations.ChipProgramsPage : Prop :=
  ∀ (s : State) (a : Addr) (data : List Byte), s.params.wf = true → RefReady s →
    s.env.chip.mem.wf = true → data.length = 256 → a.toNat % 256 = 0 →
    a.toNat < s.params.capacityBytes →
    ∃ t, exec (.pp a data) s = .next t ∧ t.env.bus = .refChip ∧
      (s.env.chip.wel = true →
        (∀ i, i < 256 → t.env.chip.mem.read (a.toNat + i) =
          s.env.chip.mem.read (a.toNat + i) &&& data.getD i 0) ∧
        t.env.chip.wel = false ∧ t.env.chip.busyLeft = s.env.chip.fixture.busyPp) ∧
      (s.env.chip.wel = false → t.env.chip.mem = s.env.chip.mem ∧ t.env.chip.wel = false ∧
        t.env.chip.busyLeft = .samples 0)

/-- R77, R78: an erase of a ready reference chip whose latch is set leaves 0xFF in every byte of the
unit containing the address (of the whole array for CE), clears the latch and makes the chip busy; with
the latch clear it is ignored. The commands alone are the model's own input (assumption 10), the bytes of
a unit that a smaller capacity cuts its choice (assumption 33). -/
def Obligations.ChipErasesUnit : Prop :=
  ∀ (s : State) (a : Addr), s.params.wf = true → RefReady s → a.toNat < s.params.capacityBytes →
    (s.env.chip.wel = true →
      (∃ t, exec (.se a) s = .next t ∧ t.env.chip.wel = false ∧
        t.env.chip.busyLeft = s.env.chip.fixture.busySe ∧
        ∀ x, x / 4096 = a.toNat / 4096 → t.env.chip.mem.read x = 0xFF) ∧
      (∃ t, exec (.be32 a) s = .next t ∧ t.env.chip.wel = false ∧
        t.env.chip.busyLeft = s.env.chip.fixture.busyBe32 ∧
        ∀ x, x / 32768 = a.toNat / 32768 → t.env.chip.mem.read x = 0xFF) ∧
      (∃ t, exec (.be64 a) s = .next t ∧ t.env.chip.wel = false ∧
        t.env.chip.busyLeft = s.env.chip.fixture.busyBe64 ∧
        ∀ x, x / 65536 = a.toNat / 65536 → t.env.chip.mem.read x = 0xFF) ∧
      (∃ t, exec .ce s = .next t ∧ t.env.chip.wel = false ∧
        t.env.chip.busyLeft = s.env.chip.fixture.busyCe ∧ ∀ x, t.env.chip.mem.read x = 0xFF)) ∧
    (s.env.chip.wel = false → ∀ i ∈ [Instr.se a, .be32 a, .be64 a, .ce],
      ∃ t, exec i s = .next t ∧ t.env.bus = .refChip ∧ t.env.chip.mem = s.env.chip.mem ∧
        t.env.chip.wel = false ∧ t.env.chip.busyLeft = .samples 0)

/-- R72 (b), R83 (c): a busy reference chip ignores every frame of a command other than RDSR1 and
RPD, whatever its payload: its state between transactions is the same as before, and every byte the
block captures in that frame is 0xFF. What it returns while bytes are sent is free (assumption 16). That it
takes RPD while busy, and that an ignored frame leaves a reset-enable armed, are the model's readings
(assumptions 19 and 20). -/
def Obligations.ChipIgnoresFramesWhileBusy : Prop :=
  ∀ (s : State) (op : WireOp) (tx : List Byte) (nrx : Nat), s.params.wf = true →
    s.env.bus = .refChip → s.env.chip.pd = false → s.env.chip.busyLeft ≠ .samples 0 →
    op ≠ .rdsr1 → op ≠ .rpd →
    (frame (s.params.opc op) tx nrx s).2.env.chip = { s.env.chip with frame := [] } ∧
    (frame (s.params.opc op) tx nrx s).1 = List.replicate nrx 0xFF

/-- R72 (a), R79, R283, R291: a powered-down reference chip answers 0xFF to every byte of every frame, so
its status reads as busy and RESET among the guarded operations returns BUSY; whatever instruction runs, or a wait goes on, the chip stays
powered down with its array and latch kept, but for RELEASE_POWER_DOWN and the command RPD, which wake
it. The commands alone are the model's own input (assumption 10), a pass that is a step is its choice
(assumption 1). -/
def Obligations.ChipAsleepReadsBusy : Prop :=
  ∀ s : State, s.params.wf = true → s.env.bus = .refChip → s.env.chip.pd = true →
    (∀ (op : WireOp) (tx : List Byte) (nrx : Nat),
      (frame (s.params.opc op) tx nrx s).2.trace = s.trace ++
        wireFrame s op tx (List.replicate (tx.length + 1) 0xFF) (List.replicate nrx 0xFF)) ∧
    SampleBusy s ∧ (∃ t, exec .reset s = .next t ∧ t.rspStatus = .busy) ∧
    (∀ (i : Instr) (t : State), i ≠ .releasePowerDown → i ≠ .rpd → exec i s = .next t →
      t.env.bus = .refChip ∧ t.env.chip.pd = true ∧ t.env.chip.mem = s.env.chip.mem ∧
        t.env.chip.wel = s.env.chip.wel) ∧
    (∀ (op : BitVec 4) (timeout : Millis) (t : State), runStep op (.poll timeout) s = .next t →
      t.env.bus = .refChip ∧ t.env.chip.pd = true ∧ t.env.chip.mem = s.env.chip.mem ∧
        t.env.chip.wel = s.env.chip.wel) ∧
    (∃ t, exec .releasePowerDown s = .next t ∧ t.rspStatus = .ok ∧
      t.env.chip = { s.env.chip with pd := false, rsten := false, frame := [] }) ∧
    (∃ t, exec .rpd s = .next t ∧
      t.env.chip = { s.env.chip with pd := false, rsten := false, frame := [] })

/-- R281: with the mirror set and the chip's latch clear, WRITE_PAGE sends its frame to a chip that
ignores it and still returns OK: silent loss. -/
def Obligations.DesyncedMirrorLosesWrite : Prop :=
  ∀ (s : State) (a : Addr), s.params.wf = true → RefReady s → s.welTrack = true →
    s.env.chip.wel = false → a.toNat % 256 = 0 → a.toNat < s.params.capacityBytes →
    ∃ t, exec (.writePage a) s = .next t ∧ t.rspStatus = .ok ∧ t.welTrack = false ∧
      t.env.chip.mem = s.env.chip.mem ∧ t.env.chip.busyLeft = .samples 0

/-- R182, the round-trip law: on an erased page of a ready reference chip, WRITE_PAGE that returns OK,
then a WAIT_UNTIL_FREE that ends in OK, then READ_PAGE that returns OK, leave in the page buffer
what was written, whatever the host put there in between. Where the capacity is below 256 this rests on
the model's choice (assumption 33), a pass that is a step is its choice too (assumption 1). -/
def Obligations.PageRoundTrip : Prop :=
  ∀ (s s1 s2 s3 : State) (a : Addr) (timeout : Millis) (between : PageBuffer),
    s.params.wf = true → RefReady s → s.hostIn = [] → s.env.chip.mem.wf = true →
    (s.welTrack = true → s.env.chip.wel = true) →
    a.toNat % 256 = 0 → a.toNat < s.params.capacityBytes →
    s.env.chip.mem.pageErased a.toNat →
    exec (.writePage a) s = .next s1 → s1.rspStatus = .ok →
    EndsIn (exec (.waitUntilFree timeout) s1) s2 → s2.rspStatus = .ok →
    exec (.readPage a) { s2 with pb := between } = .next s3 → s3.rspStatus = .ok →
    s3.pb = s.pb
end

