-- ==== Sys2Proof/Laws/Decode.lean ====
section
/-! SUPPORT. What the decoder's small functions say: which command a first byte stands for, lengths and
dummy bytes. -/

namespace Sys2Proof

theorem WireOp.mem_all (op : WireOp) : op ∈ WireOp.all := by cases op <;> decide

/-- The opcodes of a legal configuration are pairwise distinct (R95). -/
theorem Params.opc_inj {p : Params} (h : p.wf = true) {a b : WireOp} (hab : p.opc a = p.opc b) :
    a = b := by
  simp only [Params.wf, Bool.and_eq_true, decide_eq_true_eq] at h
  exact List.inj_on_of_nodup_map h.1.1.1.1 (WireOp.mem_all a) (WireOp.mem_all b) hab

theorem Params.opc_eq_iff {p : Params} (h : p.wf = true) (a b : WireOp) :
    p.opc a = p.opc b ↔ a = b := ⟨Params.opc_inj h, fun hab => by rw [hab]⟩

theorem opc_of_wireOpOf {p : Params} {b : Byte} {op : WireOp} (h : wireOpOf p b = some op) :
    p.opc op = b := by simpa using List.find?_some h

/-- A command's own opcode byte stands for that command. -/
theorem wireOpOf_opc {p : Params} (h : p.wf = true) (op : WireOp) : wireOpOf p (p.opc op) = some op := by
  cases hf : wireOpOf p (p.opc op) with
  | none =>
    rw [wireOpOf, List.find?_eq_none] at hf
    exact absurd (beq_self_eq_true _) (hf op (WireOp.mem_all op))
  | some o => rw [Params.opc_inj h (opc_of_wireOpOf hf)]

/-- Some command has that opcode byte, in any configuration. -/
theorem isSome_wireOpOf_opc (p : Params) (op : WireOp) : (wireOpOf p (p.opc op)).isSome = true := by
  rw [wireOpOf, List.find?_isSome]
  exact ⟨op, WireOp.mem_all op, beq_self_eq_true _⟩

/-- A register of `CS_ID_W` bits holds a number below 2^`CS_ID_W`. -/
theorem csIdLow_lt (p : Params) (n : Nat) : csIdLow p n < 2 ^ p.csIdW :=
  Nat.mod_lt _ (Nat.two_pow_pos _)

/-- A number of `CS_ID_W` bits is held as it is. -/
theorem csIdLow_of_lt {p : Params} {n : Nat} (h : n < 2 ^ p.csIdW) : csIdLow p n = n :=
  Nat.mod_eq_of_lt h

theorem reqCsIdField_lt (p : Params) (w : RequestWord) : reqCsIdField p w < 2 ^ p.csIdW :=
  csIdLow_lt ..

theorem hasLength_iff (n : Nat) (l : List Byte) : hasLength n l = true ↔ l.length = n := by
  induction l generalizing n with
  | nil => cases n <;> simp [hasLength]
  | cons b l ih => cases n <;> simp [hasLength, ih]

theorem allDummy_iff (l : List Byte) : allDummy l = true ↔ l = dummies l.length := by
  induction l with
  | nil => simp [allDummy, dummies]
  | cons b l ih =>
    by_cases hb : b = dummyByte
    · simpa [allDummy, hb, dummies, List.replicate_succ] using ih
    · have : (b == dummyByte) = false := by simpa using hb
      simp [allDummy, this, dummies, List.replicate_succ, hb]

@[simp] theorem length_dummies (n : Nat) : (dummies n).length = n := by simp [dummies]

@[simp] theorem hasLength_dummies (n : Nat) : hasLength n (dummies n) = true := by simp [hasLength_iff]

@[simp] theorem allDummy_dummies (n : Nat) : allDummy (dummies n) = true := by simp [allDummy_iff]

@[simp] theorem length_addrBytes (a : Addr) : (addrBytes a).length = 3 := rfl

end Sys2Proof
end

