-- ==== Sys2Proof/Laws/Memory.lean ====
section
/-! SUPPORT. The laws of the flash array's operations: read after write, what program and erase do to
each byte, and that every operation keeps the canonical form. -/

namespace Sys2Proof.Machine

theorem Memory.wfFrom_mono {lo lo' : Nat} {m : Memory} (h : lo' ≤ lo) (hw : m.wfFrom lo = true) :
    m.wfFrom lo' = true := by
  cases m with
  | nil => rfl
  | cons c m =>
    simp only [Memory.wfFrom, Bool.and_eq_true, decide_eq_true_eq] at hw ⊢
    exact ⟨⟨by omega, hw.1.2⟩, hw.2⟩

/-- Below the first listed address everything is blank. -/
theorem Memory.read_below {lo a : Nat} {m : Memory} (hw : m.wfFrom lo = true) (h : a < lo) :
    m.read a = Memory.blank := by
  induction m generalizing lo with
  | nil => rfl
  | cons c m ih =>
    simp only [Memory.wfFrom, Bool.and_eq_true, decide_eq_true_eq] at hw
    have hne : c.1 ≠ a := by omega
    simp only [Memory.read, hne, if_false]
    exact ih hw.2 (by omega)

theorem Memory.read_write_same {lo a : Nat} {m : Memory} (b : Byte) (hw : m.wfFrom lo = true) :
    (m.write a b).read a = b := by
  induction m generalizing lo with
  | nil => by_cases hb : b = Memory.blank <;> simp [Memory.write, Memory.read, hb]
  | cons c m ih =>
    simp only [Memory.wfFrom, Bool.and_eq_true, decide_eq_true_eq] at hw
    obtain ⟨x, v⟩ := c
    simp only at hw
    rcases Nat.lt_trichotomy x a with h | h | h
    · have hne : x ≠ a := by omega
      simp [Memory.write, Memory.read, h, hne, ih hw.2]
    · subst h
      by_cases hb : b = Memory.blank
      · simp [Memory.write, hb, Memory.read_below hw.2]
      · simp [Memory.write, Memory.read, hb]
    · have h1 : ¬ x < a := by omega
      have h2 : x ≠ a := by omega
      by_cases hb : b = Memory.blank
      · simp [Memory.write, Memory.read, h1, h2, hb, Memory.read_below hw.2 (by omega : a < x + 1)]
      · simp [Memory.write, Memory.read, h1, h2, hb]

theorem Memory.read_write_other {a c : Nat} (m : Memory) (b : Byte) (h : c ≠ a) :
    (m.write a b).read c = m.read c := by
  induction m with
  | nil =>
    by_cases hb : b = Memory.blank <;> simp [Memory.write, Memory.read, hb, h.symm]
  | cons d m ih =>
    obtain ⟨x, v⟩ := d
    rcases Nat.lt_trichotomy x a with h' | h' | h'
    · simp [Memory.write, Memory.read, h', ih]
    · subst h'
      by_cases hb : b = Memory.blank <;> simp [Memory.write, Memory.read, hb, h.symm]
    · have h1 : ¬ x < a := by omega
      have h2 : x ≠ a := by omega
      by_cases hb : b = Memory.blank <;> simp [Memory.write, Memory.read, h1, h2, hb, h.symm]

theorem Memory.wfFrom_write {lo a : Nat} {m : Memory} (b : Byte) (h : lo ≤ a)
    (hw : m.wfFrom lo = true) : (m.write a b).wfFrom lo = true := by
  induction m generalizing lo with
  | nil =>
    by_cases hb : b = Memory.blank
    · simp [Memory.write, hb, Memory.wfFrom]
    · simp [Memory.write, hb, Memory.wfFrom, h]
  | cons c m ih =>
    obtain ⟨x, v⟩ := c
    simp only [Memory.wfFrom, Bool.and_eq_true, decide_eq_true_eq, bne_iff_ne] at hw
    rcases Nat.lt_trichotomy x a with h' | h' | h'
    · simp [Memory.write, h', Memory.wfFrom, hw.1, ih (by omega : x + 1 ≤ a) hw.2]
    · subst h'
      by_cases hb : b = Memory.blank
      · simp [Memory.write, hb, Memory.wfFrom_mono (by omega : lo ≤ x + 1) hw.2]
      · simp [Memory.write, hb, Memory.wfFrom, hw.1, hw.2]
    · have h1 : ¬ x < a := by omega
      have h2 : x ≠ a := by omega
      by_cases hb : b = Memory.blank
      · simp [Memory.write, h1, h2, hb, Memory.wfFrom, hw.1, hw.2]
      · simp [Memory.write, h1, h2, hb, Memory.wfFrom, hw.1, hw.2, h, h']

theorem Memory.wf_write {m : Memory} (a : Nat) (b : Byte) (hw : m.wf = true) :
    (m.write a b).wf = true := Memory.wfFrom_write b (Nat.zero_le a) hw

theorem Memory.wf_program {m : Memory} (a : Nat) (bs : List Byte) (hw : m.wf = true) :
    (m.program a bs).wf = true := by
  induction bs generalizing m a with
  | nil => exact hw
  | cons b bs ih => exact ih _ (Memory.wf_write _ _ hw)

theorem Memory.wfFrom_filter {lo : Nat} {m : Memory} (p : Host.Cell → Bool)
    (hw : m.wfFrom lo = true) : Memory.wfFrom lo (m.filter p) = true := by
  induction m generalizing lo with
  | nil => rfl
  | cons c m ih =>
    simp only [Memory.wfFrom, Bool.and_eq_true, decide_eq_true_eq] at hw
    by_cases hp : p c
    · simp only [List.filter_cons, hp, if_true, Memory.wfFrom, Bool.and_eq_true, decide_eq_true_eq]
      exact ⟨hw.1, ih hw.2⟩
    · simp only [List.filter_cons, hp]
      exact Memory.wfFrom_mono (by omega) (ih hw.2)

theorem Memory.wf_eraseRange {m : Memory} (base size : Nat) (hw : m.wf = true) :
    (m.eraseRange base size).wf = true := Memory.wfFrom_filter _ hw

/-- What an erase leaves at each address (R77). -/
theorem Memory.read_eraseRange (m : Memory) (base size c : Nat) :
    (m.eraseRange base size).read c =
      if base ≤ c ∧ c < base + size then Memory.blank else m.read c := by
  induction m with
  | nil => simp [Memory.eraseRange, Memory.read]
  | cons d m ih =>
    obtain ⟨x, v⟩ := d
    unfold Memory.eraseRange at ih ⊢
    by_cases hin : base ≤ x ∧ x < base + size
    · have hf : (!(decide (base ≤ (x, v).1) && decide ((x, v).1 < base + size))) = false := by
        simp [hin.1, hin.2]
      simp only [List.filter_cons, hf, Bool.false_eq_true, if_false, ih]
      by_cases hx : x = c
      · subst hx; simp [hin]
      · simp [Memory.read, hx]
    · have hf : (!(decide (base ≤ (x, v).1) && decide ((x, v).1 < base + size))) = true := by
        simp only [Bool.not_eq_true', Bool.and_eq_false_iff, decide_eq_false_iff_not]
        omega
      simp only [List.filter_cons, hf, if_true]
      by_cases hx : x = c
      · subst hx; simp [Memory.read, hin]
      · simp only [Memory.read, hx, if_false, ih]

/-- What a program leaves at each address (R75). -/
theorem Memory.read_program {m : Memory} (a c : Nat) (bs : List Byte) (hw : m.wf = true) :
    (m.program a bs).read c =
      if a ≤ c ∧ c < a + bs.length then m.read c &&& bs.getD (c - a) 0 else m.read c := by
  induction bs generalizing m a with
  | nil => simp [Memory.program]
  | cons b bs ih =>
    rw [Memory.program, ih _ (Memory.wf_write _ _ hw)]
    by_cases hc : c = a
    · subst hc
      simp [Memory.read_write_same _ hw]
    · rw [Memory.read_write_other _ _ hc]
      by_cases h1 : a + 1 ≤ c ∧ c < a + 1 + bs.length
      · have h2 : a ≤ c ∧ c < a + (b :: bs).length := by simp; omega
        have h3 : c - a = (c - (a + 1)) + 1 := by omega
        simp [h1, h2, h3]
        omega
      · have h2 : ¬ (a ≤ c ∧ c < a + (b :: bs).length) := by simp; omega
        rw [if_neg h1, if_neg h2]

theorem Memory.length_readBytes (m : Memory) (a n : Nat) : (m.readBytes a n).length = n := by
  induction n generalizing a with
  | zero => rfl
  | succ n ih => simp [Memory.readBytes, ih]

theorem Memory.getD_readBytes (m : Memory) (a n i : Nat) (h : i < n) :
    (m.readBytes a n).getD i 0 = m.read (a + i) := by
  induction n generalizing a i with
  | zero => omega
  | succ n ih =>
    cases i with
    | zero => simp [Memory.readBytes]
    | succ i =>
      have := ih (a + 1) i (by omega)
      simp only [Memory.readBytes, List.getD_cons_succ, this]
      congr 1
      omega

/-- The canonical form is canonical: two well-formed arrays that read alike are equal data. -/
theorem Memory.wfFrom_ext {lo : Nat} {m m' : Memory} (hw : m.wfFrom lo = true)
    (hw' : m'.wfFrom lo = true) (h : ∀ a, m.read a = m'.read a) : m = m' := by
  induction m generalizing lo m' with
  | nil =>
    cases m' with
    | nil => rfl
    | cons c m' =>
      have := h c.1
      simp only [Memory.wfFrom, Bool.and_eq_true, bne_iff_ne] at hw'
      simp only [Memory.read, if_true] at this
      exact absurd this.symm hw'.1.2
  | cons c m ih =>
    cases m' with
    | nil =>
      have := h c.1
      simp only [Memory.wfFrom, Bool.and_eq_true, bne_iff_ne] at hw
      simp only [Memory.read, if_true] at this
      exact absurd this hw.1.2
    | cons c' m' =>
      obtain ⟨x, v⟩ := c
      obtain ⟨x', v'⟩ := c'
      simp only [Memory.wfFrom, Bool.and_eq_true, decide_eq_true_eq, bne_iff_ne] at hw hw'
      have hx : x = x' := by
        rcases Nat.lt_trichotomy x x' with hlt | heq | hgt
        · have hx := h x
          have hb := Memory.read_below hw'.2 (by omega : x < x' + 1)
          have hne : x' ≠ x := by omega
          simp only [Memory.read, if_true, hne, if_false, hb] at hx
          exact absurd hx hw.1.2
        · exact heq
        · have hx := h x'
          have hb := Memory.read_below hw.2 (by omega : x' < x + 1)
          have hne : x ≠ x' := by omega
          simp only [Memory.read, if_true, hne, if_false, hb] at hx
          exact absurd hx.symm hw'.1.2
      subst hx
      have hv : v = v' := by simpa [Memory.read] using h x
      subst hv
      congr 1
      refine ih hw.2 hw'.2 fun a => ?_
      by_cases ha : a < x + 1
      · rw [Memory.read_below hw.2 ha, Memory.read_below hw'.2 ha]
      · have hne : x ≠ a := by omega
        simpa [Memory.read, hne] using h a

end Sys2Proof.Machine
end

