-- ==== Sys2Proof/Laws/State.lean ====
section
/-! SUPPORT. One lemma per field for each named update of the state, each true by unfolding the update
once. -/

namespace Sys2Proof.Machine

variable (s : State)

@[simp] theorem emit_params (ev : Event) : (emit ev s).params = s.params := rfl
@[simp] theorem emit_csId (ev : Event) : (emit ev s).csId = s.csId := rfl
@[simp] theorem emit_busCfg (ev : Event) : (emit ev s).busCfg = s.busCfg := rfl
@[simp] theorem emit_welTrack (ev : Event) : (emit ev s).welTrack = s.welTrack := rfl
@[simp] theorem emit_phase (ev : Event) : (emit ev s).phase = s.phase := rfl
@[simp] theorem emit_wstate (ev : Event) : (emit ev s).wstate = s.wstate := rfl
@[simp] theorem emit_csN (ev : Event) : (emit ev s).csN = s.csN := rfl
@[simp] theorem emit_t0 (ev : Event) : (emit ev s).t0 = s.t0 := rfl
@[simp] theorem emit_probe (ev : Event) : (emit ev s).probe = s.probe := rfl
@[simp] theorem emit_idx (ev : Event) : (emit ev s).idx = s.idx := rfl
@[simp] theorem emit_reqOp (ev : Event) : (emit ev s).reqOp = s.reqOp := rfl
@[simp] theorem emit_reqAddr (ev : Event) : (emit ev s).reqAddr = s.reqAddr := rfl
@[simp] theorem emit_reqHold (ev : Event) : (emit ev s).reqHold = s.reqHold := rfl
@[simp] theorem emit_reqTimeout (ev : Event) : (emit ev s).reqTimeout = s.reqTimeout := rfl
@[simp] theorem emit_reqCsId (ev : Event) : (emit ev s).reqCsId = s.reqCsId := rfl
@[simp] theorem emit_rspValid (ev : Event) : (emit ev s).rspValid = s.rspValid := rfl
@[simp] theorem emit_rspStatus (ev : Event) : (emit ev s).rspStatus = s.rspStatus := rfl
@[simp] theorem emit_rspBusy (ev : Event) : (emit ev s).rspBusy = s.rspBusy := rfl
@[simp] theorem emit_idMfr (ev : Event) : (emit ev s).idMfr = s.idMfr := rfl
@[simp] theorem emit_idType (ev : Event) : (emit ev s).idType = s.idType := rfl
@[simp] theorem emit_idCap (ev : Event) : (emit ev s).idCap = s.idCap := rfl
@[simp] theorem emit_rspBusyKnown (ev : Event) : (emit ev s).rspBusyKnown = s.rspBusyKnown := rfl
@[simp] theorem emit_idKnown (ev : Event) : (emit ev s).idKnown = s.idKnown := rfl
@[simp] theorem emit_pb (ev : Event) : (emit ev s).pb = s.pb := rfl
@[simp] theorem emit_trace (ev : Event) : (emit ev s).trace = s.trace ++ [ev] := rfl
@[simp] theorem emit_hostIn (ev : Event) : (emit ev s).hostIn = s.hostIn := rfl
@[simp] theorem emit_env (ev : Event) : (emit ev s).env = s.env := rfl

@[simp] theorem select_params : (select s).params = s.params := rfl
@[simp] theorem select_csId : (select s).csId = s.csId := rfl
@[simp] theorem select_busCfg : (select s).busCfg = s.busCfg := rfl
@[simp] theorem select_welTrack : (select s).welTrack = s.welTrack := rfl
@[simp] theorem select_phase : (select s).phase = s.phase := rfl
@[simp] theorem select_wstate : (select s).wstate = s.wstate := rfl
@[simp] theorem select_csN : (select s).csN = false := rfl
@[simp] theorem select_t0 : (select s).t0 = s.t0 := rfl
@[simp] theorem select_probe : (select s).probe = s.probe := rfl
@[simp] theorem select_idx : (select s).idx = s.idx := rfl
@[simp] theorem select_reqOp : (select s).reqOp = s.reqOp := rfl
@[simp] theorem select_reqAddr : (select s).reqAddr = s.reqAddr := rfl
@[simp] theorem select_reqHold : (select s).reqHold = s.reqHold := rfl
@[simp] theorem select_reqTimeout : (select s).reqTimeout = s.reqTimeout := rfl
@[simp] theorem select_reqCsId : (select s).reqCsId = s.reqCsId := rfl
@[simp] theorem select_rspValid : (select s).rspValid = s.rspValid := rfl
@[simp] theorem select_rspStatus : (select s).rspStatus = s.rspStatus := rfl
@[simp] theorem select_rspBusy : (select s).rspBusy = s.rspBusy := rfl
@[simp] theorem select_idMfr : (select s).idMfr = s.idMfr := rfl
@[simp] theorem select_idType : (select s).idType = s.idType := rfl
@[simp] theorem select_idCap : (select s).idCap = s.idCap := rfl
@[simp] theorem select_rspBusyKnown : (select s).rspBusyKnown = s.rspBusyKnown := rfl
@[simp] theorem select_idKnown : (select s).idKnown = s.idKnown := rfl
@[simp] theorem select_pb : (select s).pb = s.pb := rfl
@[simp] theorem select_trace : (select s).trace = s.trace ++ [.sel s.csId s.busCfg] := rfl
@[simp] theorem select_hostIn : (select s).hostIn = s.hostIn := rfl
@[simp] theorem select_env : (select s).env = s.env.select := rfl

@[simp] theorem deselect_params : (deselect s).params = s.params := rfl
@[simp] theorem deselect_csId : (deselect s).csId = s.csId := rfl
@[simp] theorem deselect_busCfg : (deselect s).busCfg = s.busCfg := rfl
@[simp] theorem deselect_welTrack : (deselect s).welTrack = s.welTrack := rfl
@[simp] theorem deselect_phase : (deselect s).phase = s.phase := rfl
@[simp] theorem deselect_wstate : (deselect s).wstate = s.wstate := rfl
@[simp] theorem deselect_csN : (deselect s).csN = true := rfl
@[simp] theorem deselect_t0 : (deselect s).t0 = s.t0 := rfl
@[simp] theorem deselect_probe : (deselect s).probe = s.probe := rfl
@[simp] theorem deselect_idx : (deselect s).idx = Config.freeIdx s.trace.length := rfl
@[simp] theorem deselect_reqOp : (deselect s).reqOp = s.reqOp := rfl
@[simp] theorem deselect_reqAddr : (deselect s).reqAddr = s.reqAddr := rfl
@[simp] theorem deselect_reqHold : (deselect s).reqHold = s.reqHold := rfl
@[simp] theorem deselect_reqTimeout : (deselect s).reqTimeout = s.reqTimeout := rfl
@[simp] theorem deselect_reqCsId : (deselect s).reqCsId = s.reqCsId := rfl
@[simp] theorem deselect_rspValid : (deselect s).rspValid = s.rspValid := rfl
@[simp] theorem deselect_rspStatus : (deselect s).rspStatus = s.rspStatus := rfl
@[simp] theorem deselect_rspBusy : (deselect s).rspBusy = s.rspBusy := rfl
@[simp] theorem deselect_idMfr : (deselect s).idMfr = s.idMfr := rfl
@[simp] theorem deselect_idType : (deselect s).idType = s.idType := rfl
@[simp] theorem deselect_idCap : (deselect s).idCap = s.idCap := rfl
@[simp] theorem deselect_rspBusyKnown : (deselect s).rspBusyKnown = s.rspBusyKnown := rfl
@[simp] theorem deselect_idKnown : (deselect s).idKnown = s.idKnown := rfl
@[simp] theorem deselect_pb : (deselect s).pb = s.pb := rfl
@[simp] theorem deselect_trace : (deselect s).trace = s.trace ++ [.desel s.csId] := rfl
@[simp] theorem deselect_hostIn : (deselect s).hostIn = s.hostIn := rfl
@[simp] theorem deselect_env : (deselect s).env = s.env.deselect s.params := rfl

@[simp] theorem delayUs_params (n : Nat) : (delayUs n s).params = s.params := rfl
@[simp] theorem delayUs_csId (n : Nat) : (delayUs n s).csId = s.csId := rfl
@[simp] theorem delayUs_busCfg (n : Nat) : (delayUs n s).busCfg = s.busCfg := rfl
@[simp] theorem delayUs_welTrack (n : Nat) : (delayUs n s).welTrack = s.welTrack := rfl
@[simp] theorem delayUs_phase (n : Nat) : (delayUs n s).phase = s.phase := rfl
@[simp] theorem delayUs_wstate (n : Nat) : (delayUs n s).wstate = s.wstate := rfl
@[simp] theorem delayUs_csN (n : Nat) : (delayUs n s).csN = s.csN := rfl
@[simp] theorem delayUs_t0 (n : Nat) : (delayUs n s).t0 = s.t0 := rfl
@[simp] theorem delayUs_probe (n : Nat) : (delayUs n s).probe = s.probe := rfl
@[simp] theorem delayUs_idx (n : Nat) : (delayUs n s).idx = s.idx := rfl
@[simp] theorem delayUs_reqOp (n : Nat) : (delayUs n s).reqOp = s.reqOp := rfl
@[simp] theorem delayUs_reqAddr (n : Nat) : (delayUs n s).reqAddr = s.reqAddr := rfl
@[simp] theorem delayUs_reqHold (n : Nat) : (delayUs n s).reqHold = s.reqHold := rfl
@[simp] theorem delayUs_reqTimeout (n : Nat) : (delayUs n s).reqTimeout = s.reqTimeout := rfl
@[simp] theorem delayUs_reqCsId (n : Nat) : (delayUs n s).reqCsId = s.reqCsId := rfl
@[simp] theorem delayUs_rspValid (n : Nat) : (delayUs n s).rspValid = s.rspValid := rfl
@[simp] theorem delayUs_rspStatus (n : Nat) : (delayUs n s).rspStatus = s.rspStatus := rfl
@[simp] theorem delayUs_rspBusy (n : Nat) : (delayUs n s).rspBusy = s.rspBusy := rfl
@[simp] theorem delayUs_idMfr (n : Nat) : (delayUs n s).idMfr = s.idMfr := rfl
@[simp] theorem delayUs_idType (n : Nat) : (delayUs n s).idType = s.idType := rfl
@[simp] theorem delayUs_idCap (n : Nat) : (delayUs n s).idCap = s.idCap := rfl
@[simp] theorem delayUs_rspBusyKnown (n : Nat) : (delayUs n s).rspBusyKnown = s.rspBusyKnown := rfl
@[simp] theorem delayUs_idKnown (n : Nat) : (delayUs n s).idKnown = s.idKnown := rfl
@[simp] theorem delayUs_pb (n : Nat) : (delayUs n s).pb = s.pb := rfl
@[simp] theorem delayUs_trace (n : Nat) : (delayUs n s).trace = s.trace ++ [.d n] := rfl
@[simp] theorem delayUs_hostIn (n : Nat) : (delayUs n s).hostIn = s.hostIn := rfl
@[simp] theorem delayUs_env (n : Nat) : (delayUs n s).env = s.env := rfl

@[simp] theorem finish_params (st : Status) : (finish st s).params = s.params := rfl
@[simp] theorem finish_csId (st : Status) : (finish st s).csId = s.csId := rfl
@[simp] theorem finish_busCfg (st : Status) : (finish st s).busCfg = s.busCfg := rfl
@[simp] theorem finish_welTrack (st : Status) : (finish st s).welTrack = s.welTrack := rfl
@[simp] theorem finish_phase (st : Status) : (finish st s).phase = .idle := rfl
@[simp] theorem finish_wstate (st : Status) : (finish st s).wstate = s.wstate := rfl
@[simp] theorem finish_csN (st : Status) : (finish st s).csN = s.csN := rfl
@[simp] theorem finish_t0 (st : Status) : (finish st s).t0 = s.t0 := rfl
@[simp] theorem finish_probe (st : Status) : (finish st s).probe = s.probe := rfl
@[simp] theorem finish_idx (st : Status) : (finish st s).idx = s.idx := rfl
@[simp] theorem finish_reqOp (st : Status) : (finish st s).reqOp = s.reqOp := rfl
@[simp] theorem finish_reqAddr (st : Status) : (finish st s).reqAddr = s.reqAddr := rfl
@[simp] theorem finish_reqHold (st : Status) : (finish st s).reqHold = s.reqHold := rfl
@[simp] theorem finish_reqTimeout (st : Status) : (finish st s).reqTimeout = s.reqTimeout := rfl
@[simp] theorem finish_reqCsId (st : Status) : (finish st s).reqCsId = s.reqCsId := rfl
@[simp] theorem finish_rspValid (st : Status) : (finish st s).rspValid = true := rfl
@[simp] theorem finish_rspStatus (st : Status) : (finish st s).rspStatus = st := rfl
@[simp] theorem finish_rspBusy (st : Status) : (finish st s).rspBusy = s.rspBusy := rfl
@[simp] theorem finish_idMfr (st : Status) : (finish st s).idMfr = s.idMfr := rfl
@[simp] theorem finish_idType (st : Status) : (finish st s).idType = s.idType := rfl
@[simp] theorem finish_idCap (st : Status) : (finish st s).idCap = s.idCap := rfl
@[simp] theorem finish_rspBusyKnown (st : Status) : (finish st s).rspBusyKnown = s.rspBusyKnown := rfl
@[simp] theorem finish_idKnown (st : Status) : (finish st s).idKnown = s.idKnown := rfl
@[simp] theorem finish_pb (st : Status) : (finish st s).pb = s.pb := rfl
@[simp] theorem finish_trace (st : Status) : (finish st s).trace = s.trace := rfl
@[simp] theorem finish_hostIn (st : Status) : (finish st s).hostIn = s.hostIn := rfl
@[simp] theorem finish_env (st : Status) : (finish st s).env = s.env := rfl

@[simp] theorem accept_params (w : RequestWord) : (accept w s).params = s.params := rfl
@[simp] theorem accept_csId (w : RequestWord) : (accept w s).csId = s.csId := rfl
@[simp] theorem accept_busCfg (w : RequestWord) : (accept w s).busCfg = s.busCfg := rfl
@[simp] theorem accept_welTrack (w : RequestWord) : (accept w s).welTrack = s.welTrack := rfl
@[simp] theorem accept_phase (w : RequestWord) : (accept w s).phase = .run (reqOpField w) .start := rfl
@[simp] theorem accept_wstate (w : RequestWord) : (accept w s).wstate = s.wstate := rfl
@[simp] theorem accept_csN (w : RequestWord) : (accept w s).csN = s.csN := rfl
@[simp] theorem accept_t0 (w : RequestWord) : (accept w s).t0 = s.t0 := rfl
@[simp] theorem accept_probe (w : RequestWord) : (accept w s).probe = s.probe := rfl
@[simp] theorem accept_idx (w : RequestWord) : (accept w s).idx = s.idx := rfl
@[simp] theorem accept_reqOp (w : RequestWord) : (accept w s).reqOp = reqOpField w := rfl
@[simp] theorem accept_reqAddr (w : RequestWord) : (accept w s).reqAddr = reqAddrField w := rfl
@[simp] theorem accept_reqHold (w : RequestWord) : (accept w s).reqHold = reqHoldField w := rfl
@[simp] theorem accept_reqTimeout (w : RequestWord) : (accept w s).reqTimeout = reqTimeoutField w := rfl
@[simp] theorem accept_reqCsId (w : RequestWord) : (accept w s).reqCsId = reqCsIdField s.params w := rfl
@[simp] theorem accept_rspValid (w : RequestWord) : (accept w s).rspValid = false := rfl
@[simp] theorem accept_rspStatus (w : RequestWord) : (accept w s).rspStatus = s.rspStatus := rfl
@[simp] theorem accept_rspBusy (w : RequestWord) : (accept w s).rspBusy = s.rspBusy := rfl
@[simp] theorem accept_idMfr (w : RequestWord) : (accept w s).idMfr = s.idMfr := rfl
@[simp] theorem accept_idType (w : RequestWord) : (accept w s).idType = s.idType := rfl
@[simp] theorem accept_idCap (w : RequestWord) : (accept w s).idCap = s.idCap := rfl
@[simp] theorem accept_rspBusyKnown (w : RequestWord) : (accept w s).rspBusyKnown = s.rspBusyKnown := rfl
@[simp] theorem accept_idKnown (w : RequestWord) : (accept w s).idKnown = s.idKnown := rfl
@[simp] theorem accept_pb (w : RequestWord) : (accept w s).pb = s.pb := rfl
@[simp] theorem accept_trace (w : RequestWord) : (accept w s).trace = s.trace := rfl
@[simp] theorem accept_hostIn (w : RequestWord) : (accept w s).hostIn = s.hostIn := rfl
@[simp] theorem accept_env (w : RequestWord) : (accept w s).env = s.env := rfl

@[simp] theorem initConfigure_params (cs : CsId) : (initConfigure cs s).params = s.params := rfl
@[simp] theorem initConfigure_csId (cs : CsId) : (initConfigure cs s).csId = csIdLow s.params cs := rfl
@[simp] theorem initConfigure_busCfg (cs : CsId) : (initConfigure cs s).busCfg = busConstants s.params := rfl
@[simp] theorem initConfigure_welTrack (cs : CsId) : (initConfigure cs s).welTrack = false := rfl
@[simp] theorem initConfigure_phase (cs : CsId) : (initConfigure cs s).phase = s.phase := rfl
@[simp] theorem initConfigure_wstate (cs : CsId) : (initConfigure cs s).wstate = s.wstate := rfl
@[simp] theorem initConfigure_csN (cs : CsId) : (initConfigure cs s).csN = true := rfl
@[simp] theorem initConfigure_t0 (cs : CsId) : (initConfigure cs s).t0 = s.t0 := rfl
@[simp] theorem initConfigure_probe (cs : CsId) : (initConfigure cs s).probe = s.probe := rfl
@[simp] theorem initConfigure_idx (cs : CsId) : (initConfigure cs s).idx = s.idx := rfl
@[simp] theorem initConfigure_reqOp (cs : CsId) : (initConfigure cs s).reqOp = s.reqOp := rfl
@[simp] theorem initConfigure_reqAddr (cs : CsId) : (initConfigure cs s).reqAddr = s.reqAddr := rfl
@[simp] theorem initConfigure_reqHold (cs : CsId) : (initConfigure cs s).reqHold = s.reqHold := rfl
@[simp] theorem initConfigure_reqTimeout (cs : CsId) : (initConfigure cs s).reqTimeout = s.reqTimeout := rfl
@[simp] theorem initConfigure_reqCsId (cs : CsId) : (initConfigure cs s).reqCsId = s.reqCsId := rfl
@[simp] theorem initConfigure_rspValid (cs : CsId) : (initConfigure cs s).rspValid = s.rspValid := rfl
@[simp] theorem initConfigure_rspStatus (cs : CsId) : (initConfigure cs s).rspStatus = s.rspStatus := rfl
@[simp] theorem initConfigure_rspBusy (cs : CsId) : (initConfigure cs s).rspBusy = s.rspBusy := rfl
@[simp] theorem initConfigure_idMfr (cs : CsId) : (initConfigure cs s).idMfr = s.idMfr := rfl
@[simp] theorem initConfigure_idType (cs : CsId) : (initConfigure cs s).idType = s.idType := rfl
@[simp] theorem initConfigure_idCap (cs : CsId) : (initConfigure cs s).idCap = s.idCap := rfl
@[simp] theorem initConfigure_rspBusyKnown (cs : CsId) : (initConfigure cs s).rspBusyKnown = s.rspBusyKnown := rfl
@[simp] theorem initConfigure_idKnown (cs : CsId) : (initConfigure cs s).idKnown = s.idKnown := rfl
@[simp] theorem initConfigure_pb (cs : CsId) : (initConfigure cs s).pb = s.pb := rfl
@[simp] theorem initConfigure_trace (cs : CsId) : (initConfigure cs s).trace = s.trace := rfl
@[simp] theorem initConfigure_hostIn (cs : CsId) : (initConfigure cs s).hostIn = s.hostIn := rfl
@[simp] theorem initConfigure_env (cs : CsId) : (initConfigure cs s).env = s.env := rfl

@[simp] theorem hardReset_params : (hardReset s).params = s.params := rfl
@[simp] theorem hardReset_csId : (hardReset s).csId = 0 := rfl
@[simp] theorem hardReset_busCfg : (hardReset s).busCfg = busConstants s.params := rfl
@[simp] theorem hardReset_welTrack : (hardReset s).welTrack = false := rfl
@[simp] theorem hardReset_phase : (hardReset s).phase = .idle := rfl
@[simp] theorem hardReset_wstate : (hardReset s).wstate = .ready := rfl
@[simp] theorem hardReset_csN : (hardReset s).csN = true := rfl
@[simp] theorem hardReset_t0 : (hardReset s).t0 = 0 := rfl
@[simp] theorem hardReset_probe : (hardReset s).probe = Vector.replicate 5 0 := rfl
@[simp] theorem hardReset_idx : (hardReset s).idx = 0 := rfl
@[simp] theorem hardReset_reqOp : (hardReset s).reqOp = 0 := rfl
@[simp] theorem hardReset_reqAddr : (hardReset s).reqAddr = 0 := rfl
@[simp] theorem hardReset_reqHold : (hardReset s).reqHold = false := rfl
@[simp] theorem hardReset_reqTimeout : (hardReset s).reqTimeout = 0 := rfl
@[simp] theorem hardReset_reqCsId : (hardReset s).reqCsId = 0 := rfl
@[simp] theorem hardReset_rspValid : (hardReset s).rspValid = false := rfl
@[simp] theorem hardReset_rspStatus : (hardReset s).rspStatus = .ok := rfl
@[simp] theorem hardReset_rspBusy : (hardReset s).rspBusy = false := rfl
@[simp] theorem hardReset_idMfr : (hardReset s).idMfr = 0 := rfl
@[simp] theorem hardReset_idType : (hardReset s).idType = 0 := rfl
@[simp] theorem hardReset_idCap : (hardReset s).idCap = 0 := rfl
@[simp] theorem hardReset_rspBusyKnown : (hardReset s).rspBusyKnown = false := rfl
@[simp] theorem hardReset_idKnown : (hardReset s).idKnown = false := rfl
@[simp] theorem hardReset_pb : (hardReset s).pb = s.pb := rfl
@[simp] theorem hardReset_trace : (hardReset s).trace = s.trace := rfl
@[simp] theorem hardReset_hostIn : (hardReset s).hostIn = s.hostIn := rfl
@[simp] theorem hardReset_env : (hardReset s).env = s.env := rfl

end Sys2Proof.Machine
end

