-- ==== Sys2Proof/Laws/Ops.lean ====
section
/-! SUPPORT. One specification lemma for each shared operation: what it can do, all of it. Every later
proof cites these and does not unfold the operations. -/

namespace Sys2Proof.Machine

/-! ## What the environment answers, as functions of the environment alone -/

/-- The answers to the bytes of a list, in order. -/
def Env.answers (p : Params) : List Byte → Env → List Byte
  | [], _ => []
  | b :: bs, e => e.answer p :: Env.answers p bs (e.exchange p b)

/-- The environment after exchanging the bytes of a list. -/
def Env.exchanges (p : Params) : List Byte → Env → Env
  | [], e => e
  | b :: bs, e => Env.exchanges p bs (e.exchange p b)

@[simp] theorem Env.length_answers (p : Params) (bs : List Byte) (e : Env) :
    (Env.answers p bs e).length = bs.length := by
  induction bs generalizing e with
  | nil => rfl
  | cons b bs ih => simp [Env.answers, ih]

theorem Env.exchanges_append (p : Params) (bs cs : List Byte) (e : Env) :
    Env.exchanges p (bs ++ cs) e = Env.exchanges p cs (Env.exchanges p bs e) := by
  induction bs generalizing e with
  | nil => rfl
  | cons b bs ih => exact ih _

/-- What is discarded in a frame: the answers to its sent bytes. -/
def Env.frameDisc (p : Params) (opc : Byte) (tx : List Byte) (e : Env) : List Byte :=
  Env.answers p (opc :: tx) e.select

/-- What is received in a frame. -/
def Env.frameRx (p : Params) (opc : Byte) (tx : List Byte) (nrx : Nat) (e : Env) : List Byte :=
  Env.answers p (dummies nrx) (Env.exchanges p (opc :: tx) e.select)

/-- The environment before the DESEL of a frame. -/
def Env.frameOpen (p : Params) (opc : Byte) (tx : List Byte) (nrx : Nat) (e : Env) : Env :=
  Env.exchanges p (dummies nrx) (Env.exchanges p (opc :: tx) e.select)

/-- The environment after a frame. -/
def Env.frameEnd (p : Params) (opc : Byte) (tx : List Byte) (nrx : Nat) (e : Env) : Env :=
  (Env.frameOpen p opc tx nrx e).deselect p

@[simp] theorem Env.length_frameDisc (p : Params) (opc : Byte) (tx : List Byte) (e : Env) :
    (Env.frameDisc p opc tx e).length = tx.length + 1 := by simp [Env.frameDisc]

@[simp] theorem Env.length_frameRx (p : Params) (opc : Byte) (tx : List Byte) (nrx : Nat) (e : Env) :
    (Env.frameRx p opc tx nrx e).length = nrx := by simp [Env.frameRx, dummies]

/-! ## The transport and the frame -/

theorem sendBytes_eq (bs : List Byte) (s : State) :
    sendBytes bs s =
      { s with
        trace := s.trace ++ List.zipWith Event.x bs (Env.answers s.params bs s.env)
        env := Env.exchanges s.params bs s.env } := by
  induction bs generalizing s with
  | nil => simp [sendBytes, Env.answers, Env.exchanges]
  | cons b bs ih =>
    rw [sendBytes, ih]
    simp [xchg, emit, Env.answers, Env.exchanges]

theorem recvBytes_eq (n : Nat) (s : State) :
    recvBytes n s =
      (Env.answers s.params (dummies n) s.env,
       { s with
         trace := s.trace ++ (Env.answers s.params (dummies n) s.env).map (Event.x dummyByte)
         env := Env.exchanges s.params (dummies n) s.env }) := by
  induction n generalizing s with
  | zero => simp [recvBytes, Env.answers, Env.exchanges, dummies]
  | succ n ih =>
    rw [recvBytes, ih]
    simp [xchg, emit, Env.answers, Env.exchanges, dummies, List.replicate_succ]

/-- R125, whole: one transaction's events, the received bytes, `cs_n` back at 1, and nothing else of
the block but the meaningless `idx`. -/
theorem frame_eq (opc : Byte) (tx : List Byte) (nrx : Nat) (s : State) :
    frame opc tx nrx s =
      (Env.frameRx s.params opc tx nrx s.env,
       { s with
         csN := true
         idx := Config.freeIdx (s.trace.length + (2 + tx.length + nrx))
         trace := s.trace ++ frameEvents s.csId s.busCfg (opc :: tx)
           (Env.frameDisc s.params opc tx s.env) (Env.frameRx s.params opc tx nrx s.env)
         env := Env.frameEnd s.params opc tx nrx s.env }) := by
  simp [frame, recvBytes_eq, sendBytes_eq, select, deselect, emit, Env.frameRx, Env.frameOpen,
    Env.frameEnd, Env.frameDisc, frameEvents, dummies]
  congr 1
  omega

/-! ## The busy sample and the guard -/

/-- The status byte a sample reads. -/
def Env.sample (p : Params) (e : Env) : Byte := (Env.frameRx p p.opcRdsr1 [] 1 e).getD 0 0

/-- The environment after a sample. -/
def Env.afterSample (p : Params) (e : Env) : Env := Env.frameEnd p p.opcRdsr1 [] 1 e

theorem Env.frameRx_one (p : Params) (opc : Byte) (tx : List Byte) (e : Env) :
    Env.frameRx p opc tx 1 e = [(Env.frameRx p opc tx 1 e).getD 0 0] := by
  have h := Env.length_frameRx p opc tx 1 e
  match hx : Env.frameRx p opc tx 1 e, h with
  | [a], _ => rfl

theorem Env.frameDisc_one (p : Params) (opc : Byte) (e : Env) :
    Env.frameDisc p opc [] e = [(Env.frameDisc p opc [] e).getD 0 0] := by
  simp [Env.frameDisc, Env.answers]

/-- The state a status sample leaves (R126). -/
def afterSample (s : State) : State :=
  { s with
    csN := true
    idx := Config.freeIdx (s.trace.length + 3)
    wstate := wstateOfSample (busyBit (s.env.sample s.params))
    trace := s.trace ++ statusFrame s ((Env.frameDisc s.params s.params.opcRdsr1 [] s.env).getD 0 0)
      (s.env.sample s.params)
    env := s.env.afterSample s.params }

theorem statusBusy_eq (s : State) :
    statusBusy s = (busyBit (s.env.sample s.params), afterSample s) := by
  simp only [statusBusy, frame_eq, afterSample, Env.sample, Env.afterSample, statusFrame, wireFrame,
    Params.opc, Prod.mk.injEq, true_and, List.length_nil]
  rw [← Env.frameRx_one, ← Env.frameDisc_one]

/-- The state a frame of a command leaves (R125). -/
def afterFrame (op : WireOp) (tx : List Byte) (nrx : Nat) (s : State) : State :=
  { s with
    csN := true
    idx := Config.freeIdx (s.trace.length + (2 + tx.length + nrx))
    trace := s.trace ++ wireFrame s op tx (Env.frameDisc s.params (s.params.opc op) tx s.env)
      (Env.frameRx s.params (s.params.opc op) tx nrx s.env)
    env := Env.frameEnd s.params (s.params.opc op) tx nrx s.env }

theorem frame_opc_eq (op : WireOp) (tx : List Byte) (nrx : Nat) (s : State) :
    frame (s.params.opc op) tx nrx s =
      (Env.frameRx s.params (s.params.opc op) tx nrx s.env, afterFrame op tx nrx s) := frame_eq ..

@[simp] theorem afterSample_params (s : State) : (afterSample s).params = s.params := rfl

@[simp] theorem afterFrame_params (op : WireOp) (tx : List Byte) (nrx : Nat) (s : State) :
    (afterFrame op tx nrx s).params = s.params := rfl

/-- R127, whole. -/
theorem guarded_eq (op : WireOp) (tx : List Byte) (nrx : Nat) (s : State) :
    guarded (s.params.opc op) tx nrx s =
      if busyBit (s.env.sample s.params) then (none, afterSample s)
      else (some (Env.frameRx s.params (s.params.opc op) tx nrx (s.env.afterSample s.params)),
            afterFrame op tx nrx (afterSample s)) := by
  have h := frame_opc_eq op tx nrx (afterSample s)
  simp only [afterSample_params] at h
  simp only [guarded, statusBusy_eq, h]
  rfl

/-- The state before the frame that `issue` sends, if it sends one. -/
def beforeFrame (op : WireOp) (s : State) : State := if wireGuarded op then afterSample s else s

/-- Whether `issue` sends its frame: always without a guard, on a ready sample with one. -/
def issues (op : WireOp) (s : State) : Bool :=
  !(wireGuarded op && busyBit (s.env.sample s.params))

/-- The bytes a command receives. -/
def issueRx (op : WireOp) (tx : List Byte) (nrx : Nat) (s : State) : List Byte :=
  Env.frameRx s.params (s.params.opc op) tx nrx (beforeFrame op s).env

theorem issue_eq (op : WireOp) (tx : List Byte) (nrx : Nat) (s : State) :
    issue op tx nrx s =
      if issues op s then (some (issueRx op tx nrx s), afterFrame op tx nrx (beforeFrame op s))
      else (none, afterSample s) := by
  unfold issue issues issueRx beforeFrame
  by_cases hg : wireGuarded op
  · by_cases hb : busyBit (s.env.sample s.params) <;> simp [hg, hb, guarded_eq, afterSample]
  · simp [hg, frame_opc_eq]

/-- Everything `issueThen` can do. -/
theorem issueThen_eq (op : WireOp) (tx : List Byte) (nrx : Nat) (write : List Byte → State → State)
    (s : State) :
    issueThen op tx nrx write s =
      if issues op s then
        (.ok, write (issueRx op tx nrx s) (afterFrame op tx nrx (beforeFrame op s)))
      else (.busy, afterSample s) := by
  unfold issueThen
  rw [issue_eq]
  by_cases h : issues op s <;> simp [h]

/-! ## The timer -/

/-- The state after a reading of the counter (R255). -/
def afterReading (s : State) : State :=
  { s with
    trace := s.trace ++ [.t (readingOf s.env.afterReading.msCount)]
    env := s.env.afterReading }

theorem nowMs_eq (s : State) :
    nowMs s = (readingOf s.env.afterReading.msCount, afterReading s) := rfl

/-- R256 (b): the modular difference is the true elapsed count when that is below 2^32. -/
theorem elapsed_readingOf (c c' : Nat) (h : c ≤ c') (h' : c' - c < 2 ^ 32) :
    (elapsed (readingOf c') (readingOf c)).toNat = c' - c := by
  simp only [elapsed, readingOf, BitVec.toNat_sub, BitVec.toNat_ofNat]
  omega

/-! ## Sequencing -/

@[simp] theorem andThen_ok (s : State) (k : State → Result) : andThen (.ok, s) k = k s := rfl

theorem andThen_of_ne {r : Result} (k : State → Result) (h : r.1 ≠ .ok) : andThen r k = r := by
  simp [andThen, h]

@[simp] theorem andThen_busy (s : State) (k : State → Result) :
    andThen (.busy, s) k = (.busy, s) := rfl

end Sys2Proof.Machine
end

