-- ==== Sys2Proof/Laws/Path.lean ====
section
/-! SUPPORT. What any instruction can do on the bus: every meaning is a path of status samples, guarded
frames, the reset pair, RPD, timer readings, delays and writes of the block's own registers. A law
about all instructions is proved once over paths. -/

namespace Sys2Proof.Machine

/-- A step of the block that the bus does not see. -/
structure Quiet (s t : State) : Prop where
  params : t.params = s.params
  env    : t.env = s.env
  trace  : t.trace = s.trace
  hostIn : t.hostIn = s.hostIn
  csN    : t.csN = s.csN ∨ t.csN = true
  busCfg : t.busCfg = s.busCfg ∨ t.busCfg = busConstants s.params
  csId   : t.csId = s.csId ∨ t.csId < 2 ^ s.params.csIdW
  reqCsId : t.reqCsId = s.reqCsId

/-- The program or erase frame an instruction may send. -/
inductive Mutates : Instr → WireOp → List Byte → Prop
  | writePage (a data) : Mutates (.writePage a) .pp (addrBytes a ++ data)
  | pp (a data) : Mutates (.pp a data) .pp (addrBytes a ++ data)
  | eraseSector (a h) : Mutates (.eraseSector a h) .se (addrBytes a)
  | se (a) : Mutates (.se a) .se (addrBytes a)
  | eraseBlock32 (a h) : Mutates (.eraseBlock32 a h) .be32 (addrBytes a)
  | be32 (a) : Mutates (.be32 a) .be32 (addrBytes a)
  | eraseBlock64 (a h) : Mutates (.eraseBlock64 a h) .be64 (addrBytes a)
  | be64 (a) : Mutates (.be64 a) .be64 (addrBytes a)
  | eraseChip (h) : Mutates (.eraseChip h) .ce []
  | ce : Mutates .ce .ce []

/-- What an instruction may send under a ready sample. -/
inductive Sends (p : Params) : Instr → WireOp → List Byte → Prop
  | mutates {i op tx} : Mutates i op tx → Sends p i op tx
  | wren (i) : Sends p i .wren []
  | wrdi (i) : Sends p i .wrdi []
  | read (i tx) : Sends p i .read tx
  | pd (i) : Sends p i .pd []
  | jedec (i) : Sends p i .jedec []
  | rsten (i) : Sends p i .rsten []
  | probe (i) (h : p.idProbe = .mfrDevId) : Sends p i .mfrDevId []
  | mfrDevId : Sends p .mfrDevId .mfrDevId []

theorem Sends.guarded {p i op tx} (h : Sends p i op tx) : wireGuarded op = true := by
  cases h with
  | mutates h => cases h <;> rfl
  | _ => rfl

inductive Path (i : Instr) (s : State) : State → Prop
  | refl : Path i s s
  | quiet {t u} : Path i s t → Quiet t u → Path i s u
  | sample {t} : Path i s t → Path i s (afterSample t)
  | command {t op tx} (nrx) : Path i s t → SampleReady t → Sends s.params i op tx →
      Path i s (afterFrame op tx nrx (afterSample t))
  | pair {t} : Path i s t → SampleReady t →
      Path i s (afterFrame .rst [] 0 (afterFrame .rsten [] 0 (afterSample t)))
  | release {t} : Path i s t → Path i s (afterFrame .rpd [] 0 t)
  | rawRst {t} : Path i s t → i = .rst → Path i s (afterFrame .rst [] 0 t)
  | reading {t} : Path i s t → Path i s (afterReading t)
  | delay {t} (n) : Path i s t → Path i s (delayUs n t)

variable {i : Instr} {s t : State}

theorem sampleReady_iff (s : State) :
    SampleReady s ↔ busyBit (s.env.sample s.params) = false := by simp [SampleReady, statusBusy_eq]

theorem sampleBusy_iff (s : State) :
    SampleBusy s ↔ busyBit (s.env.sample s.params) = true := by simp [SampleBusy, statusBusy_eq]

/-- A guarded command under a ready sample. -/
theorem issueThen_ready {op : WireOp} (tx : List Byte) (nrx : Nat)
    (write : List Byte → State → State) (hg : wireGuarded op = true) (hr : SampleReady s) :
    issueThen op tx nrx write s =
      (.ok, write (Env.frameRx s.params (s.params.opc op) tx nrx (s.env.afterSample s.params))
        (afterFrame op tx nrx (afterSample s))) := by
  rw [sampleReady_iff] at hr
  simp [issueThen_eq, issues, hr, beforeFrame, hg, issueRx, afterSample]

/-- A guarded command under a busy sample. -/
theorem issueThen_busy {op : WireOp} (tx : List Byte) (nrx : Nat)
    (write : List Byte → State → State) (hg : wireGuarded op = true) (hb : SampleBusy s) :
    issueThen op tx nrx write s = (.busy, afterSample s) := by
  rw [sampleBusy_iff] at hb
  simp [issueThen_eq, issues, hb, hg]

/-- A command without a guard. -/
theorem issueThen_unguarded {op : WireOp} (tx : List Byte) (nrx : Nat)
    (write : List Byte → State → State) (hg : wireGuarded op = false) :
    issueThen op tx nrx write s =
      (.ok, write (Env.frameRx s.params (s.params.opc op) tx nrx s.env)
        (afterFrame op tx nrx s)) := by
  simp [issueThen_eq, issues, hg, beforeFrame, issueRx]

theorem sampleBusy_of_not_ready (h : ¬ SampleReady s) : SampleBusy s := by
  simpa [SampleReady, SampleBusy] using h

namespace Path

theorem params (h : Path i s t) : t.params = s.params := by
  induction h with
  | quiet _ hq ih => rw [hq.params, ih]
  | refl => rfl
  | _ => assumption

theorem hostIn (h : Path i s t) : t.hostIn = s.hostIn := by
  induction h with
  | quiet _ hq ih => rw [hq.hostIn, ih]
  | refl => rfl
  | _ => assumption

theorem reqCsId (h : Path i s t) : t.reqCsId = s.reqCsId := by
  induction h with
  | quiet _ hq ih => rw [hq.reqCsId, ih]
  | refl => rfl
  | _ => assumption

/-- The chip-select identifier keeps its width. -/
theorem csId_lt (h : Path i s t) (hs : s.csId < 2 ^ s.params.csIdW) :
    t.csId < 2 ^ s.params.csIdW := by
  induction h with
  | quiet hp hq ih => exact hq.csId.elim (fun he => he ▸ ih) fun hl => hp.params ▸ hl
  | refl => exact hs
  | _ => assumption

/-- A guarded command and the write that follows it, at the end of a path. -/
theorem issueThen {op : WireOp} {tx : List Byte} (nrx : Nat)
    {write : List Byte → State → State} (h : Path i s t) (hs : Sends s.params i op tx)
    (hq : ∀ rx u, Quiet u (write rx u)) :
    Path i s (Machine.issueThen op tx nrx write t).2 := by
  by_cases hr : SampleReady t
  · rw [issueThen_ready _ _ _ hs.guarded hr]
    exact (h.command nrx hr hs).quiet (hq _ _)
  · rw [issueThen_busy _ _ _ hs.guarded (sampleBusy_of_not_ready hr)]
    exact h.sample

theorem wrenBody (h : Path i s t) : Path i s (Machine.wrenBody t).2 :=
  h.issueThen 0 (.wren i) fun _ _ => ⟨rfl, rfl, rfl, rfl, .inl rfl, .inl rfl, .inl rfl, rfl⟩

theorem wrdiBody (h : Path i s t) : Path i s (Machine.wrdiBody t).2 :=
  h.issueThen 0 (.wrdi i) fun _ _ => ⟨rfl, rfl, rfl, rfl, .inl rfl, .inl rfl, .inl rfl, rfl⟩

theorem mutateBody {op tx} (h : Path i s t) (hm : Mutates i op tx) :
    Path i s (Machine.mutateBody op tx t).2 :=
  h.issueThen 0 (.mutates hm) fun _ _ => ⟨rfl, rfl, rfl, rfl, .inl rfl, .inl rfl, .inl rfl, rfl⟩

theorem readBody (a : Addr) (h : Path i s t) : Path i s (Machine.readBody a t).2 :=
  h.issueThen pageSize (.read i _) fun _ _ => ⟨rfl, rfl, rfl, rfl, .inl rfl, .inl rfl, .inl rfl, rfl⟩

theorem pdBody (h : Path i s t) : Path i s (Machine.pdBody t).2 :=
  h.issueThen 0 (.pd i) fun _ _ => ⟨rfl, rfl, rfl, rfl, .inl rfl, .inl rfl, .inl rfl, rfl⟩

theorem identBody (h : Path i s t) : Path i s (Machine.identBody t).2 :=
  h.issueThen jedecLen (.jedec i) fun _ _ => ⟨rfl, rfl, rfl, rfl, .inl rfl, .inl rfl, .inl rfl, rfl⟩

theorem probeBody {op} (h : Path i s t) (hs : Sends s.params i op []) :
    Path i s (Machine.probeBody op t).2 :=
  h.issueThen idProbeLen hs fun _ _ => ⟨rfl, rfl, rfl, rfl, .inl rfl, .inl rfl, .inl rfl, rfl⟩

theorem rstenBody (h : Path i s t) : Path i s (Machine.rstenBody t).2 :=
  h.issueThen 0 (.rsten i) fun _ _ => ⟨rfl, rfl, rfl, rfl, .inl rfl, .inl rfl, .inl rfl, rfl⟩

theorem rpdBody (h : Path i s t) : Path i s (Machine.rpdBody t).2 := by
  rw [Machine.rpdBody, issueThen_unguarded _ _ _ rfl]
  exact h.release

theorem finish (st : Status) (h : Path i s t) : Path i s (Machine.finish st t) :=
  h.quiet ⟨rfl, rfl, rfl, rfl, .inl rfl, .inl rfl, .inl rfl, rfl⟩

theorem andThen {r : Result} {k : State → Result} (h : Path i s r.2)
    (hk : ∀ u, Path i s u → Path i s (k u).2) : Path i s (Machine.andThen r k).2 := by
  unfold Machine.andThen
  split
  · exact hk _ h
  · exact h

theorem autoEnable (h : Path i s t) : Path i s (Machine.autoEnable t).2 := by
  unfold Machine.autoEnable
  split
  · exact h
  · exact h.wrenBody

theorem mutate {op tx} (h : Path i s t) (hm : Mutates i op tx) :
    Path i s (Machine.mutate op tx t).2 := by
  unfold Machine.mutate
  refine Path.andThen ?_ fun u hu => hu.mutateBody hm
  split
  · exact h.autoEnable
  · exact h

theorem resetBody (h : Path i s t) : Path i s (Machine.resetBody t).2 := by
  unfold Machine.resetBody Machine.rstenBody
  by_cases hr : SampleReady t
  · rw [issueThen_ready _ _ _ rfl hr]
    simp only [andThen_ok, Machine.rstBody, issueThen_unguarded _ _ _ (rfl : wireGuarded .rst = false)]
    exact Path.delay _ ((h.pair hr).quiet ⟨rfl, rfl, rfl, rfl, .inl rfl, .inl rfl, .inl rfl, rfl⟩)
  · rw [issueThen_busy _ _ _ rfl (sampleBusy_of_not_ready hr)]
    exact h.sample

theorem statusBusy (h : Path i s t) : Path i s (Machine.statusBusy t).2 := by
  rw [statusBusy_eq]
  exact h.sample

theorem waitConfirm (h : Path i s t) : Path i s (Machine.waitConfirm t) := by
  have hq : Path i s { t with wstate := .timedOut } :=
    h.quiet ⟨rfl, rfl, rfl, rfl, .inl rfl, .inl rfl, .inl rfl, rfl⟩
  unfold Machine.waitConfirm
  simp only
  split
  · refine Path.finish _ (Path.quiet hq.statusBusy ?_)
    exact ⟨rfl, rfl, rfl, rfl, .inl rfl, .inl rfl, .inl rfl, rfl⟩
  · exact hq.statusBusy.finish _

theorem waitPass (op : BitVec 4) (timeout : Millis) (h : Path i s t) :
    Path i s (Machine.waitPass op timeout t) := by
  have hn : Path i s (nowMs (Machine.statusBusy t).2).2 := by
    rw [nowMs_eq]
    exact h.statusBusy.reading
  unfold Machine.waitPass
  simp only
  split
  · split
    · exact hn.waitConfirm
    · exact (hn.delay _).quiet ⟨rfl, rfl, rfl, rfl, .inl rfl, .inl rfl, .inl rfl, rfl⟩
  · exact h.statusBusy.finish _

theorem waitBegin (op : BitVec 4) (timeout : Millis) (h : Path i s t) :
    Path i s (Machine.waitBegin op timeout t) := by
  have hn : Path i s (nowMs t).2 := by
    rw [nowMs_eq]
    exact h.reading
  exact waitPass op timeout (hn.quiet ⟨rfl, rfl, rfl, rfl, .inl rfl, .inl rfl, .inl rfl, rfl⟩)

theorem erase {op tx} (code : BitVec 4) (hold : Bool) (timeout : Millis) (h : Path i s t)
    (hm : Mutates i op tx) : Path i s (Machine.erase op tx code hold timeout t) := by
  unfold Machine.erase
  simp only
  split
  · split
    · exact (h.mutate hm).waitBegin _ _
    · exact (h.mutate hm).finish _
  · exact (h.mutate hm).finish _

end Path

/-! ## A step while an operation runs -/

/-- Unless something immediate comes from outside, a step in a running operation runs it. -/
theorem step_run {op : BitVec 4} {k : Line} (hp : s.phase = .run op k)
    (hh : ∀ a ∈ s.hostIn.head?, a.immediate = false) : step s = runStep op k s := by
  unfold step advance
  rw [hp]
  simp only
  cases hx : s.hostIn with
  | nil => rfl
  | cons a l =>
    have ha : a.immediate = false := hh a (by simp [hx])
    cases a <;> first | rfl | simp [HostAction.immediate] at ha

/-- Every instruction's meaning is a path. -/
theorem exec_path (h : exec i s = .next t) : Path i s t := by
  have hr : Path i s s := .refl
  cases i <;> injection h with h <;> subst h
  case init c =>
    have hc : Path (.init c) s (initConfigure c s) :=
      hr.quiet ⟨rfl, rfl, rfl, rfl, .inr rfl, .inr rfl, .inr (csIdLow_lt ..), rfl⟩
    refine Path.finish _ (Path.andThen (hc.probeBody ?_) fun u hu => ?_)
    · cases hp : s.params.idProbe
      · exact .jedec _
      · exact .probe _ hp
    · unfold initAfterProbe
      split
      · exact hu
      · exact hu.resetBody
  case enableWriting => exact hr.wrenBody.finish _
  case disableWriting => exact hr.wrdiBody.finish _
  case writePage a => exact (hr.mutate (.writePage a _)).finish _
  case readPage a => exact (hr.readBody a).finish _
  case eraseSector a h => exact hr.erase _ _ _ (.eraseSector a h)
  case eraseBlock32 a h => exact hr.erase _ _ _ (.eraseBlock32 a h)
  case eraseBlock64 a h => exact hr.erase _ _ _ (.eraseBlock64 a h)
  case eraseChip h => exact hr.erase _ _ _ (.eraseChip h)
  case getJedec => exact hr.identBody.finish _
  case busy =>
    refine Path.finish _ (Path.quiet hr.statusBusy ?_)
    exact ⟨rfl, rfl, rfl, rfl, .inl rfl, .inl rfl, .inl rfl, rfl⟩
  case waitUntilFree timeout => exact hr.waitBegin _ _
  case reset => exact hr.resetBody.finish _
  case powerDown => exact Path.finish _ (Path.andThen hr.pdBody fun u hu => hu.delay _)
  case releasePowerDown => exact Path.finish _ (Path.andThen hr.rpdBody fun u hu => hu.delay _)
  case reservedF => exact hr.finish _
  case wren => exact hr.wrenBody
  case wrdi => exact hr.wrdiBody
  case rdsr1 => exact hr.statusBusy
  case pp a data => exact hr.mutateBody (.pp a data)
  case read a => exact hr.readBody a
  case se a => exact hr.mutateBody (.se a)
  case be32 a => exact hr.mutateBody (.be32 a)
  case be64 a => exact hr.mutateBody (.be64 a)
  case ce => exact hr.mutateBody .ce
  case pd => exact hr.pdBody
  case rpd => exact hr.rpdBody
  case jedec use =>
    cases use
    · exact hr.identBody
    · exact hr.probeBody (.jedec _)
  case rsten => exact hr.rstenBody
  case rst =>
    rw [rstBody, issueThen_unguarded _ _ _ rfl]
    exact (hr.rawRst rfl).quiet ⟨rfl, rfl, rfl, rfl, .inl rfl, .inl rfl, .inl rfl, rfl⟩
  case mfrDevId => exact hr.probeBody .mfrDevId

end Sys2Proof.Machine
end

