-- ==== Sys2Proof/Laws/Chip.lean ====
section
/-! SUPPORT. What a transaction does at the device: nothing to the array of an unconstrained one, and
for REFCHIP one lemma per kind of frame (`spec/20_memory.md` R72 to R82). -/

namespace Sys2Proof.Machine

variable {p : Params} {e : Env}

/-! ## Any device -/

theorem Env.exchange_bus (b : Byte) : (e.exchange p b).bus = e.bus := by
  unfold Env.exchange
  split
  · rfl
  · split <;> rfl

theorem Env.exchange_chip (b : Byte) :
    (e.exchange p b).chip = if e.bus = .refChip then refShift p e.chip b else e.chip := by
  unfold Env.exchange
  split
  · rename_i h; simp [h, Env.afterByte]
  · rename_i h; split <;> simp [h]

theorem Env.exchanges_bus (bs : List Byte) : (Env.exchanges p bs e).bus = e.bus := by
  induction bs generalizing e with
  | nil => rfl
  | cons b bs ih => rw [Env.exchanges, ih, Env.exchange_bus]

theorem Env.exchanges_chip (bs : List Byte) :
    (Env.exchanges p bs e).chip =
      if e.bus = .refChip then bs.foldl (refShift p) e.chip else e.chip := by
  induction bs generalizing e with
  | nil => simp [Env.exchanges]
  | cons b bs ih =>
    rw [Env.exchanges, ih, Env.exchange_bus, Env.exchange_chip]
    by_cases h : e.bus = .refChip <;> simp [h]

theorem Env.exchange_msCount (b : Byte) : (e.exchange p b).msCount = e.msCount := by
  unfold Env.exchange
  split
  · rfl
  · split <;> rfl

theorem Env.exchange_msIn (b : Byte) : (e.exchange p b).msIn = e.msIn := by
  unfold Env.exchange
  split
  · rfl
  · split <;> rfl

theorem Env.exchanges_msCount (bs : List Byte) : (Env.exchanges p bs e).msCount = e.msCount := by
  induction bs generalizing e with
  | nil => rfl
  | cons b bs ih => rw [Env.exchanges, ih, Env.exchange_msCount]

theorem Env.exchanges_msIn (bs : List Byte) : (Env.exchanges p bs e).msIn = e.msIn := by
  induction bs generalizing e with
  | nil => rfl
  | cons b bs ih => rw [Env.exchanges, ih, Env.exchange_msIn]

theorem Env.select_bus : e.select.bus = e.bus := by
  unfold Env.select
  split
  · rfl
  · rfl

theorem Env.select_chip :
    e.select.chip = if e.bus = .refChip then { e.chip with frame := [] } else e.chip := by
  unfold Env.select
  split
  · rename_i h; simp [h]
  · rename_i h; simp [h]

theorem Env.select_msCount : e.select.msCount = e.msCount := by unfold Env.select; split <;> rfl

theorem Env.select_msIn : e.select.msIn = e.msIn := by unfold Env.select; split <;> rfl

theorem Env.deselect_msCount : (e.deselect p).msCount = e.msCount := by
  unfold Env.deselect
  split
  · rfl
  · split <;> rfl

theorem Env.deselect_msIn : (e.deselect p).msIn = e.msIn := by
  unfold Env.deselect
  split
  · rfl
  · split <;> rfl

/-- A transaction takes no time of the millisecond counter. -/
theorem Env.frameEnd_msCount (opc : Byte) (tx : List Byte) (nrx : Nat) :
    (Env.frameEnd p opc tx nrx e).msCount = e.msCount := by
  simp [Env.frameEnd, Env.frameOpen, Env.deselect_msCount, Env.exchanges_msCount, Env.select_msCount]

theorem Env.frameEnd_msIn (opc : Byte) (tx : List Byte) (nrx : Nat) :
    (Env.frameEnd p opc tx nrx e).msIn = e.msIn := by
  simp [Env.frameEnd, Env.frameOpen, Env.deselect_msIn, Env.exchanges_msIn, Env.select_msIn]

/-- Against an unconstrained device REFCHIP's state is not touched. -/
theorem Env.frameEnd_any (h : e.bus = .anyDevice) (opc : Byte) (tx : List Byte) (nrx : Nat) :
    (Env.frameEnd p opc tx nrx e).bus = .anyDevice ∧
      (Env.frameEnd p opc tx nrx e).chip = e.chip := by
  have hb : (Env.frameOpen p opc tx nrx e).bus = .anyDevice := by
    rw [Env.frameOpen, Env.exchanges_bus, Env.exchanges_bus, Env.select_bus, h]
  have hc : (Env.frameOpen p opc tx nrx e).chip = e.chip := by
    rw [Env.frameOpen, Env.exchanges_chip, Env.exchanges_bus, Env.exchanges_chip, Env.select_bus,
      Env.select_chip]
    simp [h]
  rw [Env.frameEnd, Env.deselect, hb]
  exact ⟨hb, hc⟩

/-! ## REFCHIP takes in bytes -/

/-- Bytes of a frame that is no status read only pile up. -/
theorem foldl_refShift {c : RefChip} {opc : Byte} {got : List Byte} (hf : c.frame = opc :: got)
    (ho : opc ≠ p.opcRdsr1) (bs : List Byte) :
    bs.foldl (refShift p) c = { c with frame := opc :: (got ++ bs) } := by
  induction bs generalizing c got with
  | nil => cases c; simp_all
  | cons b bs ih =>
    have hs : refShift p c b = { c with frame := opc :: (got ++ [b]) } := by
      have hne : (opc == p.opcRdsr1) = false := by simpa using ho
      unfold refShift
      rw [hf]
      simp [hne]
    rw [List.foldl_cons, hs, ih (got := got ++ [b]) rfl]
    simp

/-- The device's condition before the DESEL of a command that is no status read. -/
theorem Env.frameOpen_chip (hp : p.wf = true) (h : e.bus = .refChip) {op : WireOp}
    (ho : op ≠ .rdsr1) (tx : List Byte) (nrx : Nat) :
    (Env.frameOpen p (p.opc op) tx nrx e).chip =
      { e.chip with frame := p.opc op :: (tx ++ dummies nrx) } := by
  rw [Env.frameOpen, ← Env.exchanges_append, Env.exchanges_chip, Env.select_bus, Env.select_chip]
  simp only [h, if_true, List.cons_append, List.foldl_cons]
  have hne : p.opc op ≠ p.opcRdsr1 := fun hc => ho (Params.opc_inj hp (b := .rdsr1) hc)
  exact foldl_refShift (c := { e.chip with frame := [p.opc op] }) (got := []) rfl hne _

theorem Env.frameOpen_bus (opc : Byte) (tx : List Byte) (nrx : Nat) :
    (Env.frameOpen p opc tx nrx e).bus = e.bus := by
  rw [Env.frameOpen, Env.exchanges_bus, Env.exchanges_bus, Env.select_bus]

/-- A command that is no status read at REFCHIP: its effect, or an unconstrained device where REFCHIP
refuses it. -/
theorem Env.frameEnd_ref (hp : p.wf = true) (h : e.bus = .refChip) {op : WireOp} (ho : op ≠ .rdsr1)
    (tx : List Byte) (nrx : Nat) :
    ((Env.frameEnd p (p.opc op) tx nrx e).bus, (Env.frameEnd p (p.opc op) tx nrx e).chip) =
      if refTakes p e.chip (p.opc op) then
        if refLengthOk op (tx.length + nrx) then
          match refAct p { e.chip with frame := [] } op (tx ++ dummies nrx) with
          | some c => (.refChip, c)
          | none => (.anyDevice, { e.chip with frame := [] })
        else (.anyDevice, { e.chip with frame := [] })
      else (.refChip, { e.chip with frame := [] }) := by
  have hc := Env.frameOpen_chip hp h ho tx nrx
  have hb : (Env.frameOpen p (p.opc op) tx nrx e).bus = .refChip := by rw [Env.frameOpen_bus, h]
  have ht : refTakes p { e.chip with frame := p.opc op :: (tx ++ dummies nrx) } (p.opc op) =
      refTakes p e.chip (p.opc op) := rfl
  rw [Env.frameEnd, Env.deselect, hb]
  simp only [hc, refEnd, wireOpOf_opc hp, ht, List.length_append, length_dummies]
  by_cases h1 : refTakes p e.chip (p.opc op)
  · by_cases h2 : refLengthOk op (tx.length + nrx)
    · simp only [h1, h2, if_true]
      cases refAct p { e.chip with frame := [] } op (tx ++ dummies nrx) <;> simp
    · simp [h1, h2]
  · simp [h1]

/-! ## REFCHIP answers -/

@[simp] theorem refAnswer_asleep {c : RefChip} (h : c.pd = true) : refAnswer p c = some 0xFF := by
  simp [refAnswer, h]

@[simp] theorem refAnswer_awake {c : RefChip} (h : c.pd = false) :
    refAnswer p c = refAnswerAwake p c := by simp [refAnswer, h]

theorem refAnswer_not_taken {c : RefChip} {opc : Byte} {got : List Byte} (hf : c.frame = opc :: got)
    (ht : refTakes p c opc = false) : refAnswer p c = some 0xFF := by
  cases hpd : c.pd
  · rw [refAnswer_awake hpd, refAnswerAwake, hf]
    simp [ht]
  · exact refAnswer_asleep hpd

theorem refShift_pd (c : RefChip) (b : Byte) : (refShift p c b).pd = c.pd := by
  unfold refShift
  split
  · rfl
  · split <;> rfl

/-- Every byte a powered-down REFCHIP returns is 0xFF, the opcode's exchange included (R72 (a)). -/
theorem Env.answers_asleep (h : e.bus = .refChip) (hpd : e.chip.pd = true) (bs : List Byte) :
    Env.answers p bs e = List.replicate bs.length 0xFF := by
  induction bs generalizing e with
  | nil => rfl
  | cons b bs ih =>
    have ha : e.answer p = 0xFF := by
      unfold Env.answer
      rw [h]
      simp [refAnswer_asleep hpd]
    rw [Env.answers, ha, ih (by rw [Env.exchange_bus, h])
      (by rw [Env.exchange_chip, if_pos h, refShift_pd, hpd])]
    rfl

theorem Env.exchanges_pd (h : e.bus = .refChip) (bs : List Byte) :
    (Env.exchanges p bs e).chip.pd = e.chip.pd := by
  induction bs generalizing e with
  | nil => rfl
  | cons b bs ih =>
    rw [Env.exchanges, ih (by rw [Env.exchange_bus, h]), Env.exchange_chip, if_pos h, refShift_pd]

/-- Every byte after the opcode of a frame REFCHIP ignores reads 0xFF (R72). -/
theorem Env.answers_not_taken {opc : Byte} {got : List Byte} (h : e.bus = .refChip)
    (hf : e.chip.frame = opc :: got) (ht : refTakes p e.chip opc = false) (bs : List Byte) :
    Env.answers p bs e = List.replicate bs.length 0xFF := by
  induction bs generalizing e got with
  | nil => rfl
  | cons b bs ih =>
    have ha : e.answer p = 0xFF := by
      unfold Env.answer
      rw [h]
      simp [refAnswer_not_taken hf ht]
    have hs : refShift p e.chip b = { e.chip with frame := opc :: (got ++ [b]) } := by
      unfold refShift
      rw [hf]
      simp [ht]
    have hc : (e.exchange p b).chip = { e.chip with frame := opc :: (got ++ [b]) } := by
      rw [Env.exchange_chip, if_pos h, hs]
    rw [Env.answers, ha, ih (got := got ++ [b]) (by rw [Env.exchange_bus, h]) (by rw [hc])
      (by rw [hc]; exact ht)]
    rfl

theorem Env.select_exchange_chip (h : e.bus = .refChip) (b : Byte) :
    (e.select.exchange p b).chip = { e.chip with frame := [b] } := by
  rw [Env.exchange_chip, Env.select_bus, Env.select_chip, if_pos h, if_pos h]
  rfl

/-- A frame REFCHIP ignores reads 0xFF throughout. -/
theorem Env.frameRx_not_taken {opc : Byte} (h : e.bus = .refChip)
    (ht : refTakes p e.chip opc = false) (ho : opc ≠ p.opcRdsr1) (tx : List Byte) (nrx : Nat) :
    Env.frameRx p opc tx nrx e = List.replicate nrx 0xFF := by
  have hc : (Env.exchanges p (opc :: tx) e.select).chip = { e.chip with frame := opc :: tx } := by
    rw [Env.exchanges, Env.exchanges_chip, Env.exchange_bus, Env.select_bus, if_pos h,
      Env.select_exchange_chip h]
    simpa using foldl_refShift (p := p) (c := { e.chip with frame := [opc] }) (got := []) rfl ho tx
  rw [Env.frameRx, Env.answers_not_taken (opc := opc) (got := tx)
    (by rw [Env.exchanges_bus, Env.select_bus, h]) (by rw [hc]) (by rw [hc]; exact ht)]
  simp

theorem refTakes_rdsr1 (hp : p.wf = true) (c : RefChip) : refTakes p c p.opcRdsr1 = !c.pd := by
  have hne : (p.opcRdsr1 == p.opcRpd) = false := by
    have := (Params.opc_eq_iff hp .rdsr1 .rpd).not.2 (by decide)
    simpa [Params.opc] using this
  unfold refTakes
  cases c.pd <;> simp [hne]

/-- The status byte REFCHIP answers (R72, R73). -/
theorem Env.sample_ref (hp : p.wf = true) (h : e.bus = .refChip) :
    e.sample p =
      if e.chip.pd then 0xFF else refStatusByte e.chip.wel e.chip.busyLeft.isBusy := by
  have ht := refTakes_rdsr1 hp { e.chip with frame := [p.opcRdsr1] }
  have hw : wireOpOf p p.opcRdsr1 = some .rdsr1 := wireOpOf_opc hp .rdsr1
  have hb : (e.select.exchange p p.opcRdsr1).bus = .refChip := by
    rw [Env.exchange_bus, Env.select_bus, h]
  have hc := Env.select_exchange_chip (p := p) h p.opcRdsr1
  simp only at ht
  unfold Env.sample Env.frameRx
  simp only [Env.exchanges, dummies, List.replicate, Env.answers, List.getD_cons_zero]
  unfold Env.answer
  rw [hb, hc]
  simp only [refAnswer, refAnswerAwake, ht, hw]
  cases e.chip.pd <;> simp

/-- What a status read does to REFCHIP (R73): a busy sample is used up, `rsten` clears; one that is
powered down ignores it. -/
theorem Env.afterSample_ref (hp : p.wf = true) (h : e.bus = .refChip) :
    (e.afterSample p).bus = .refChip ∧ (e.afterSample p).chip =
      if e.chip.pd then { e.chip with frame := [] }
      else { e.chip with busyLeft := e.chip.busyLeft.afterSample, rsten := false, frame := [] } := by
  have ht := refTakes_rdsr1 hp
  have hw : wireOpOf p p.opcRdsr1 = some .rdsr1 := wireOpOf_opc hp .rdsr1
  have hb : (Env.frameOpen p p.opcRdsr1 [] 1 e).bus = .refChip := by rw [Env.frameOpen_bus, h]
  have hc : (Env.frameOpen p p.opcRdsr1 [] 1 e).chip =
      if e.chip.pd then { e.chip with frame := [p.opcRdsr1, dummyByte] }
      else { e.chip with
        busyLeft := e.chip.busyLeft.afterSample, frame := [p.opcRdsr1, dummyByte] } := by
    rw [Env.frameOpen]
    simp only [Env.exchanges, dummies, List.replicate]
    rw [Env.exchange_chip, Env.exchange_bus, Env.select_bus, if_pos h,
      Env.select_exchange_chip h]
    simp only [refShift, ht]
    cases e.chip.pd <;> simp
  unfold Env.afterSample Env.frameEnd Env.deselect
  rw [hb]
  simp only [hc, refEnd]
  cases e.chip.pd <;> simp [ht, hw, refLengthOk, wireArgLength, refAct]

/-- A sample of an awake REFCHIP reads ready exactly when it is not busy. -/
theorem sampleReady_ref {s : State} (hp : s.params.wf = true) (h : s.env.bus = .refChip)
    (hpd : s.env.chip.pd = false) : SampleReady s ↔ s.env.chip.busyLeft.isBusy = false := by
  rw [sampleReady_iff, Env.sample_ref hp h, hpd]
  cases s.env.chip.wel <;> cases s.env.chip.busyLeft.isBusy <;> decide

/-- An awake REFCHIP that is not busy takes every frame. -/
theorem refTakes_free {c : RefChip} (hpd : c.pd = false) (hb : c.busyLeft.isBusy = false)
    (opc : Byte) : refTakes p c opc = true := by simp [refTakes, hpd, hb]

/-- A chip that takes a frame other than RPD is awake. -/
theorem pd_of_refTakes {c : RefChip} {opc : Byte} (ht : refTakes p c opc = true)
    (hne : opc ≠ p.opcRpd) : c.pd = false := by
  cases hpd : c.pd
  · rfl
  · simp [refTakes, hpd, hne] at ht

/-! ## A page read -/

/-- The data bytes REFCHIP clocks out in a READ (R76). -/
theorem Env.answers_read (hp : p.wf = true) {a : Addr} {got : List Byte} (h : e.bus = .refChip)
    (hf : e.chip.frame = p.opcRead :: (addrBytes a ++ got))
    (ht : refTakes p e.chip p.opcRead = true) (ha : refPageOk p a = true)
    (haddr : addrOfBytes (a.extractLsb' 16 8) (a.extractLsb' 8 8) (a.extractLsb' 0 8) = a)
    (bs : List Byte) (hn : got.length + bs.length ≤ 256) :
    Env.answers p bs e = e.chip.mem.readBytes (a.toNat + got.length) bs.length := by
  have hw : wireOpOf p p.opcRead = some .read := wireOpOf_opc hp .read
  have hne : (p.opcRead == p.opcRdsr1) = false := by
    have := (Params.opc_eq_iff hp .read .rdsr1).not.2 (by decide)
    simpa [Params.opc] using this
  have hpd : e.chip.pd = false := pd_of_refTakes ht ((Params.opc_eq_iff hp .read .rpd).not.2 (by decide))
  induction bs generalizing e got with
  | nil => rfl
  | cons b bs ih =>
    have hlt : got.length < 256 := by simp only [List.length_cons] at hn; omega
    have hr : refAnswer p e.chip = some (e.chip.mem.read (a.toNat + got.length)) := by
      rw [refAnswer_awake hpd, refAnswerAwake, hf]
      simp only [ht, if_true, hw, addrBytes, List.cons_append, List.nil_append, haddr, ha,
        Bool.true_and, hlt, decide_true]
    have hans : e.answer p = e.chip.mem.read (a.toNat + got.length) := by
      unfold Env.answer
      rw [h]
      simp [hr]
    have hs : refShift p e.chip b = { e.chip with frame := p.opcRead :: (addrBytes a ++ (got ++ [b])) } := by
      unfold refShift
      rw [hf]
      simp [hne]
    have hc : (e.exchange p b).chip =
        { e.chip with frame := p.opcRead :: (addrBytes a ++ (got ++ [b])) } := by
      rw [Env.exchange_chip, if_pos h, hs]
    rw [Env.answers, hans, ih (got := got ++ [b]) (by rw [Env.exchange_bus, h]) (by rw [hc])
      (by rw [hc]; exact ht) (by simp only [List.length_cons, List.length_append] at hn ⊢; simp; omega)
      (by rw [hc]; exact hpd), hc]
    simp [Memory.readBytes, Nat.add_assoc]

end Sys2Proof.Machine
end

