-- ==== Sys2Proof/Laws/PerInstr.lean ====
section
/-! SUPPORT. Statements made for every instruction, one lemma per constructor. -/

namespace Sys2Proof.Laws.Encoding

/-- An instruction is either a host operation, encoded as a request word whose op field is its code
and whose reserved bits are 0 (R99, R100), or a wire command, encoded as a frame that begins with its
opcode and, when it is well formed, has the command's length (R92, R95, R96). -/
def Statement (i : Instr) : Prop :=
  ∀ p : Params,
    (∃ op w, requestCode i = some op ∧ commandOf i = none ∧ encode p i = .request w ∧
      reqOpField w = op ∧ w.extractLsb' 56 3 = 0) ∨
    (∃ op rest, requestCode i = none ∧ commandOf i = some op ∧
      encode p i = .frame (p.opc op :: rest) ∧
      (i.wf p = true → rest.length = wireArgLength op ∨ op = .jedec ∧ rest.length = 5))

theorem requestWord_op (op : BitVec 4) (hold : Bool) (addr : Addr) (arg : BitVec 32) :
    reqOpField (requestWord op hold addr arg) = op := by
  unfold reqOpField requestWord
  ext i hi
  simp
  grind

theorem requestWord_reserved (op : BitVec 4) (hold : Bool) (addr : Addr) (arg : BitVec 32) :
    (requestWord op hold addr arg).extractLsb' 56 3 = 0 := by
  unfold requestWord
  ext i hi
  simp
  grind

theorem of_request {i : Instr} {op : BitVec 4} {hold : Bool} {addr : Addr} {arg : BitVec 32}
    (h : requestCode i = some op) (hc : commandOf i = none)
    (he : ∀ p, encode p i = .request (requestWord op hold addr arg)) : Statement i :=
  fun p => .inl ⟨op, _, h, hc, he p, requestWord_op .., requestWord_reserved ..⟩

theorem of_frame {i : Instr} {op : WireOp} {rest : List Byte} (h : requestCode i = none)
    (hc : commandOf i = some op) (he : ∀ p, encode p i = .frame (p.opc op :: rest))
    (hl : ∀ p, i.wf p = true → rest.length = wireArgLength op ∨ op = .jedec ∧ rest.length = 5) :
    Statement i := fun p => .inr ⟨op, rest, h, hc, he p, hl p⟩

theorem init (csId : CsId) : Statement (.init csId) := of_request rfl rfl fun _ => rfl
theorem enableWriting : Statement .enableWriting := of_request rfl rfl fun _ => rfl
theorem disableWriting : Statement .disableWriting := of_request rfl rfl fun _ => rfl
theorem writePage (addr : Addr) : Statement (.writePage addr) := of_request rfl rfl fun _ => rfl
theorem readPage (addr : Addr) : Statement (.readPage addr) := of_request rfl rfl fun _ => rfl
theorem eraseSector (addr : Addr) (hold : Bool) : Statement (.eraseSector addr hold) :=
  of_request rfl rfl fun _ => rfl
theorem eraseBlock32 (addr : Addr) (hold : Bool) : Statement (.eraseBlock32 addr hold) :=
  of_request rfl rfl fun _ => rfl
theorem eraseBlock64 (addr : Addr) (hold : Bool) : Statement (.eraseBlock64 addr hold) :=
  of_request rfl rfl fun _ => rfl
theorem eraseChip (hold : Bool) : Statement (.eraseChip hold) := of_request rfl rfl fun _ => rfl
theorem getJedec : Statement .getJedec := of_request rfl rfl fun _ => rfl
theorem busy : Statement .busy := of_request rfl rfl fun _ => rfl
theorem waitUntilFree (timeout : Millis) : Statement (.waitUntilFree timeout) :=
  of_request rfl rfl fun _ => rfl
theorem reset : Statement .reset := of_request rfl rfl fun _ => rfl
theorem powerDown : Statement .powerDown := of_request rfl rfl fun _ => rfl
theorem releasePowerDown : Statement .releasePowerDown := of_request rfl rfl fun _ => rfl
theorem reservedF : Statement .reservedF := of_request rfl rfl fun _ => rfl
theorem wren : Statement .wren := of_frame rfl rfl (fun _ => rfl) fun _ _ => .inl rfl
theorem wrdi : Statement .wrdi := of_frame rfl rfl (fun _ => rfl) fun _ _ => .inl rfl
theorem rdsr1 : Statement .rdsr1 := of_frame rfl rfl (fun _ => rfl) fun _ _ => .inl rfl
theorem pp (addr : Addr) (data : List Byte) : Statement (.pp addr data) :=
  of_frame (rest := addrBytes addr ++ data) rfl rfl (fun _ => rfl) fun _ h => by
    have hd : data.length = 256 := by simpa [Instr.wf] using h
    simp [hd, wireArgLength]
theorem read (addr : Addr) : Statement (.read addr) :=
  of_frame (rest := addrBytes addr ++ dummies 256) rfl rfl (fun _ => rfl) fun _ _ => by
    simp [wireArgLength]
theorem se (addr : Addr) : Statement (.se addr) := of_frame rfl rfl (fun _ => rfl) fun _ _ => .inl rfl
theorem be32 (addr : Addr) : Statement (.be32 addr) :=
  of_frame rfl rfl (fun _ => rfl) fun _ _ => .inl rfl
theorem be64 (addr : Addr) : Statement (.be64 addr) :=
  of_frame rfl rfl (fun _ => rfl) fun _ _ => .inl rfl
theorem ce : Statement .ce := of_frame rfl rfl (fun _ => rfl) fun _ _ => .inl rfl
theorem pd : Statement .pd := of_frame rfl rfl (fun _ => rfl) fun _ _ => .inl rfl
theorem rpd : Statement .rpd := of_frame rfl rfl (fun _ => rfl) fun _ _ => .inl rfl
theorem jedec (use : JedecUse) : Statement (.jedec use) := by
  cases use
  · exact of_frame (rest := dummies 3) rfl rfl (fun _ => rfl) fun _ _ => .inl rfl
  · exact of_frame (rest := dummies 5) rfl rfl (fun _ => rfl) fun _ _ => .inr ⟨rfl, rfl⟩
theorem rsten : Statement .rsten := of_frame rfl rfl (fun _ => rfl) fun _ _ => .inl rfl
theorem rst : Statement .rst := of_frame rfl rfl (fun _ => rfl) fun _ _ => .inl rfl
theorem mfrDevId : Statement .mfrDevId := of_frame rfl rfl (fun _ => rfl) fun _ _ => .inl rfl

end Sys2Proof.Laws.Encoding
end

