-- ==== Sys2Proof/Laws/Trace.lean ====
section
/-! SUPPORT. How the two trace disciplines of Safety run over a whole transaction, and what a
transaction does to the flash array. -/

namespace Sys2Proof.Machine

variable {p : Params}

theorem busRun_append (b : BusState) (l l' : List Event) :
    busRun p b (l ++ l') = (busRun p b l).bind fun b' => busRun p b' l' := by
  induction l generalizing b with
  | nil => rfl
  | cons a l ih => simp only [List.cons_append, busRun]; cases busNext p b a <;> simp [ih]

theorem guardRun_append (g : GuardState) (l l' : List Event) :
    guardRun p g (l ++ l') = (guardRun p g l).bind fun g' => guardRun p g' l' := by
  induction l generalizing g with
  | nil => rfl
  | cons a l ih => simp only [List.cons_append, guardRun]; cases guardNext p g a <;> simp [ih]

theorem busRun_sent (l d : List Byte) :
    busRun p .active (List.zipWith Event.x l d) = some .active := by
  induction l generalizing d with
  | nil => simp [busRun]
  | cons a l ih => cases d <;> simp [busRun, busNext, ih]

theorem busRun_received (l : List Byte) :
    busRun p .active (l.map (Event.x dummyByte)) = some .active := by
  induction l with
  | nil => simp [busRun]
  | cons a l ih => simp [busRun, busNext, ih]

theorem guardRun_sent (r : Bool) (l d : List Byte) :
    guardRun p (.body r) (List.zipWith Event.x l d) = some (.body r) := by
  induction l generalizing d with
  | nil => simp [guardRun]
  | cons a l ih => cases d <;> simp [guardRun, guardNext, ih]

theorem guardRun_received (r : Bool) (l : List Byte) :
    guardRun p (.body r) (l.map (Event.x dummyByte)) = some (.body r) := by
  induction l with
  | nil => simp [guardRun]
  | cons a l ih => simp [guardRun, guardNext, ih]

/-- A transaction is paired: from between transactions to between transactions. -/
theorem busRun_wireFrame (s : State) (op : WireOp) (tx disc rx : List Byte)
    (hd : disc.length = tx.length + 1) :
    busRun s.params .closed (wireFrame s op tx disc rx) = some .closed := by
  match disc, hd with
  | d :: ds, _ =>
    simp only [wireFrame, frameEvents, List.zipWith_cons_cons, List.cons_append, busRun, busNext,
      isSome_wireOpOf_opc, if_true]
    rw [busRun_append, busRun_sent, Option.bind_some, busRun_append, busRun_received]
    rfl

/-- A command's transaction under a grant that allows it. -/
theorem guardRun_wireFrame (s : State) (g : Grant) {op : WireOp} (tx disc rx : List Byte)
    (hp : s.params.wf = true) (hd : disc.length = tx.length + 1) (ho : op ≠ .rdsr1)
    (ha : commandAllowed s.params g op = true) :
    guardRun s.params (.closed g) (wireFrame s op tx disc rx) =
      some (.closed (if op = .rsten then .armed else .none)) := by
  match disc, hd with
  | d :: ds, _ =>
    simp only [wireFrame, frameEvents, List.zipWith_cons_cons, List.cons_append, guardRun, guardNext,
      wireOpOf_opc hp, ha, if_true, if_neg ho]
    rw [guardRun_append, guardRun_sent, Option.bind_some, guardRun_append, guardRun_received]
    simp [guardRun, guardNext]

/-- A status read grants exactly when its bit 0 is 0. -/
theorem guardRun_statusFrame (s : State) (g : Grant) (d b : Byte) (hp : s.params.wf = true) :
    guardRun s.params (.closed g) (statusFrame s d b) =
      some (.closed (if busyBit b then .none else .ready)) := by
  simp [statusFrame, wireFrame, frameEvents, guardRun, guardNext, wireOpOf_opc hp, commandAllowed]

/-! ## The array -/

/-- A status read changes no byte of the array. -/
theorem Env.afterSample_mem (hp : p.wf = true) (e : Env) :
    (e.afterSample p).chip.mem = e.chip.mem := by
  rcases he : e.bus with _ | _
  · rw [Env.afterSample, (Env.frameEnd_any he _ _ _).2]
  · rw [(Env.afterSample_ref hp he).2]
    split <;> rfl

/-- A command's transaction changes a byte of the array only as its accepted effect does. -/
theorem Env.frameEnd_mem (hp : p.wf = true) (e : Env) {op : WireOp} (tx : List Byte) (nrx x : Nat)
    (ho : op ≠ .rdsr1)
    (hk : ∀ c c', refLengthOk op (tx.length + nrx) = true →
      refAct p c op (tx ++ dummies nrx) = some c' → c'.mem.read x = c.mem.read x) :
    (Env.frameEnd p (p.opc op) tx nrx e).chip.mem.read x = e.chip.mem.read x := by
  rcases he : e.bus with _ | _
  · rw [(Env.frameEnd_any he _ _ _).2]
  · have hf := congrArg Prod.snd (Env.frameEnd_ref hp he ho tx nrx)
    simp only at hf
    rw [hf]
    split
    · split
      · rename_i hl
        split
        · rename_i c hc
          simpa using hk _ _ hl hc
        · rfl
      · rfl
    · rfl

/-- A program changes no byte outside the range it is given. -/
theorem Memory.read_program_outside (m : Memory) (a c : Nat) (bs : List Byte)
    (h : ¬ (a ≤ c ∧ c < a + bs.length)) : (m.program a bs).read c = m.read c := by
  induction bs generalizing m a with
  | nil => rfl
  | cons b bs ih =>
    simp only [List.length_cons] at h
    rw [Memory.program, ih _ _ (by omega), Memory.read_write_other _ _ (by omega)]

end Sys2Proof.Machine
end

