-- ==== Sys2Proof/Machine/Assembler.lean ====
section
/-! DEFINITION. The assembler level of `spec/30_encoding.md` R107: one operation per line, with the
operands that may be omitted and what stands for them. -/

namespace Sys2Proof.Machine

/-- A line of a host program (R107). An omitted `hold` or timeout is `none`. -/
inductive AsmLine where
  | init (cs : CsId)
  | enableWriting
  | disableWriting
  | writePage (addr : Addr)
  | readPage (addr : Addr)
  | eraseSector (addr : Addr) (hold : Option Bool)
  | eraseBlock32 (addr : Addr) (hold : Option Bool)
  | eraseBlock64 (addr : Addr) (hold : Option Bool)
  | eraseChip (hold : Option Bool)
  | getJedec
  | busy
  | waitUntilFree (timeout : Option Millis)
  | reset
  | powerDown
  | releasePowerDown
  deriving DecidableEq, Repr

/-- The operation a line names: "an erase without `hold`/`nohold` means `hold`", WAIT_UNTIL_FREE
without operand takes `T_DEFAULT_MS` (R107). -/
def AsmLine.instr (p : Params) : AsmLine → Instr
  | .init cs => .init cs
  | .enableWriting => .enableWriting
  | .disableWriting => .disableWriting
  | .writePage addr => .writePage addr
  | .readPage addr => .readPage addr
  | .eraseSector addr hold => .eraseSector addr (hold.getD true)
  | .eraseBlock32 addr hold => .eraseBlock32 addr (hold.getD true)
  | .eraseBlock64 addr hold => .eraseBlock64 addr (hold.getD true)
  | .eraseChip hold => .eraseChip (hold.getD true)
  | .getJedec => .getJedec
  | .busy => .busy
  | .waitUntilFree timeout => .waitUntilFree (timeout.getD p.tDefaultMs)
  | .reset => .reset
  | .powerDown => .powerDown
  | .releasePowerDown => .releasePowerDown

/-- What a line assembles to: "unused fields of the word are assembled as 0" (R107). -/
def AsmLine.assemble (p : Params) (l : AsmLine) : Code := encode p (l.instr p)

end Sys2Proof.Machine
end

