-- ==== Sys2Proof/Tests/Slice0.lean ====
section
/-! SUPPORT. Tests. Expected results are those of `spec/95_test_vectors.md` (the vector is named in each
comment) or of the cited rule; bytes answered to sent bytes, which are arbitrary there, are 0 here. -/

namespace Sys2Proof.Machine.Tests

/-! ## Small states -/

/-- The configuration of the vectors, with the timeouts of P2 and V47 instantiated. -/
def cfg : Params := { Params.default with spiClkHz := 8, tDefaultMs := 1, tChipEraseMs := 3 }

def busCfg : BusCfg := { clkHz := 8, mode := 0, bitOrder := .msbFirst }

/-- A transaction: the bytes sent and the bytes received. -/
abbrev Tx := List Byte × List Byte

/-- What the bus must answer for these transactions. -/
def answers (fs : List Tx) : List Byte := fs.flatMap fun f => f.1.map (fun _ => 0) ++ f.2

/-- The events of these transactions on chip select `cs`. -/
def events (cs : CsId) (fs : List Tx) : List Event :=
  fs.flatMap fun f => frameEvents cs busCfg f.1 (f.1.map fun _ => 0) f.2

/-- An idle block whose bus answers the given transactions and whose counter advances as given. -/
def start (wel : Bool) (fs : List Tx) (ms : List Nat) : State :=
  { State.resetWith cfg with
    welTrack := wel, env := { Env.initial with busIn := answers fs, msIn := ms } }

/-- Status, mirror and trace of a step's result. -/
def seen : Host.Outcome State Fault Refusal → Option (Status × Bool × List Event)
  | .next t => some (t.rspStatus, t.welTrack, t.trace)
  | .fault _ => none
  | .refused _ => none

/-- The result of a further step. -/
def again : Host.Outcome State Fault Refusal → Host.Outcome State Fault Refusal
  | .next t => step t
  | .fault f => .fault f
  | .refused r => .refused r

def pageA : List Byte := (List.range 256).map (BitVec.ofNat 8)

/-! ## Well-formedness -/

theorem test_pp_with_short_payload_is_ill_formed :
    (Instr.pp 0 (List.replicate 255 0)).wf cfg = false := by decide +kernel

theorem test_pp_with_long_payload_is_ill_formed :
    (Instr.pp 0 (List.replicate 257 0)).wf cfg = false := by decide +kernel

theorem test_pp_with_page_is_well_formed :
    (Instr.pp 0 (List.replicate 256 0)).wf cfg = true := by decide +kernel

theorem test_init_beyond_cs_id_w_is_ill_formed :
    (Instr.init 256).wf cfg = false ∧ (Instr.init 255).wf cfg = true := by decide

theorem test_init_beyond_arg_is_ill_formed :
    (Instr.init (2 ^ 32)).wf { cfg with csIdW := 40 } = false := by decide

/-! ## Encodings -/

-- V2, one row per operation
theorem test_assembler_init : AsmLine.assemble cfg (.init 3) = .request 0x0000000000000003 := by decide
theorem test_assembler_writePage :
    AsmLine.assemble cfg (.writePage 0x000100) = .request 0x3000010000000000 := by decide
theorem test_assembler_default_hold :
    AsmLine.assemble cfg (.eraseSector 0x001000 none) = .request 0x5800100000000000 := by decide
theorem test_assembler_nohold :
    AsmLine.assemble cfg (.eraseBlock32 0x008000 (some false)) = .request 0x6000800000000000 := by
  decide
theorem test_assembler_timeout :
    AsmLine.assemble cfg (.waitUntilFree (some 4294967295)) = .request 0xB0000000FFFFFFFF := by decide
theorem test_assembler_default_timeout :
    AsmLine.assemble cfg (.waitUntilFree none) = .request 0xB000000000000001 := by decide

-- V2, read back, one word per host operation
theorem test_decode_request_words :
    [0x00000000000000FF, 0x1000000000000000, 0x2000000000000000, 0x3000010000000000,
      0x4000010000000000, 0x5800100000000000, 0x6000800000000000, 0x7801000000000000].map (decodeRequest .default)
    = [.init 255, .enableWriting, .disableWriting, .writePage 0x000100, .readPage 0x000100,
        .eraseSector 0x001000 true, .eraseBlock32 0x008000 false, .eraseBlock64 0x010000 true] := by
  decide
theorem test_decode_request_words_2 :
    [0x8000000000000000, 0x9000000000000000, 0xA000000000000000, 0xB000000000000002,
      0xC000000000000000, 0xD000000000000000, 0xE000000000000000, 0xF000000000000000].map (decodeRequest .default)
    = [.eraseChip false, .getJedec, .busy, .waitUntilFree 2, .reset, .powerDown, .releasePowerDown,
        .reservedF] := by decide

-- V3, unused fields set
theorem test_decode_unused_fields :
    [0x17FFFFFFFFFFFFFF, 0xAFABCDEF12345678, 0x47ABCDEF00000000, 0x4FABCDEF00000001,
      0x88ABCDEF00000000, 0x0000000000000103, 0xB8000001FFFFFFFF].map (decodeRequest .default)
    = [.enableWriting, .busy, .readPage 0xABCDEF, .readPage 0xABCDEF, .eraseChip true, .init 3,
        .waitUntilFree 0xFFFFFFFF] := by decide

-- V17, the frames of one byte
theorem test_decode_bare_frames :
    [[0x06], [0x04], [0xC7], [0xB9], [0xAB], [0x66], [0x99]].map (decodeFrame cfg)
    = [.ok .wren, .ok .wrdi, .ok .ce, .ok .pd, .ok .rpd, .ok .rsten, .ok .rst] := by decide
-- V17, the addressed frames and the register reads
theorem test_decode_longer_frames :
    [[0x05, 0], [0x20, 0x7F, 0xF0, 0x00], [0x52, 0xAB, 0xCD, 0xEF], [0xD8, 0xFF, 0x00, 0x00],
      [0x9F, 0, 0, 0], [0x9F, 0, 0, 0, 0, 0], [0x90, 0, 0, 0, 0, 0]].map (decodeFrame cfg)
    = [.ok .rdsr1, .ok (.se 0x7FF000), .ok (.be32 0xABCDEF), .ok (.be64 0xFF0000),
        .ok (.jedec .ident), .ok (.jedec .probe), .ok .mfrDevId] := by decide
-- V17, the page frames
theorem test_decode_pp : decodeFrame cfg (0x02 :: 0x7F :: 0xFF :: 0x00 :: pageA)
    = .ok (.pp 0x7FFF00 pageA) := by decide +kernel
theorem test_decode_read : decodeFrame cfg (0x03 :: 0x7F :: 0xFF :: 0x00 :: List.replicate 256 0)
    = .ok (.read 0x7FFF00) := by decide
-- R96, R97, R105
theorem test_decode_rejects :
    [[], [0x0B], [0x06, 0], [0x20, 1, 2], [0x05, 1]].map (decodeFrame cfg)
    = [.error .emptyFrame, .error (.unknownOpcode 0x0B), .error (.badLength .wren 1),
        .error (.badLength .se 2), .error (.notDummy .rdsr1)] := by decide

-- R6, R22: other widths of the chip-select identifier
theorem test_cs_id_width :
    (reqCsIdField { cfg with csIdW := 4 } 0x00000000000001F3, reqCsIdField cfg 0x00000000000001F3,
      reqCsIdField { cfg with csIdW := 12 } 0x00000000000001F3) = (0x3, 0xF3, 0x1F3) := by decide

/-! ## Host operations -/

-- V20
theorem test_enableWriting : seen (exec .enableWriting (start false [([5], [0]), ([6], [])] []))
    = some (.ok, true, events 0 [([5], [0]), ([6], [])]) := by decide
-- V22
theorem test_enableWriting_busy : seen (exec .enableWriting (start false [([5], [1])] []))
    = some (.busy, false, events 0 [([5], [1])]) := by decide
-- V23
theorem test_disableWriting : seen (exec .disableWriting (start true [([5], [2]), ([4], [])] []))
    = some (.ok, false, events 0 [([5], [2]), ([4], [])]) := by decide
-- V24
theorem test_disableWriting_busy : seen (exec .disableWriting (start true [([5], [3])] []))
    = some (.busy, true, events 0 [([5], [3])]) := by decide
-- V35: misaligned, not rounded (the page buffer is all zero here)
theorem test_writePage_as_given :
    seen (exec (.writePage 0x123456)
      (start true [([5], [0]), (0x02 :: 0x12 :: 0x34 :: 0x56 :: List.replicate 256 0, [])] []))
    = some (.ok, false,
        events 0 [([5], [0]), (0x02 :: 0x12 :: 0x34 :: 0x56 :: List.replicate 256 0, [])]) := by decide +kernel
-- V33: WREN was sent, the mirror stays set
theorem test_writePage_second_guard_busy :
    seen (exec (.writePage 0) (start false [([5], [0]), ([6], []), ([5], [1])] []))
    = some (.busy, true, events 0 [([5], [0]), ([6], []), ([5], [1])]) := by decide
-- V37: the received bytes land in the page buffer in order
theorem test_readPage :
    (match exec (.readPage 0x000100) (start true [([5], [0]), ([0x03, 0x00, 0x01, 0x00], pageA)] []) with
      | .next t => some (t.rspStatus, t.welTrack, t.pb.toList)
      | .fault _ => none
      | .refused _ => none) = some (.ok, true, pageA) := by decide +kernel
-- V38
theorem test_readPage_busy : seen (exec (.readPage 0) (start false [([5], [1])] []))
    = some (.busy, false, events 0 [([5], [1])]) := by decide
-- V41
theorem test_eraseSector_nohold :
    seen (exec (.eraseSector 0x001000 false)
      (start false [([5], [0]), ([6], []), ([5], [2]), ([0x20, 0x00, 0x10, 0x00], [])] []))
    = some (.ok, false,
        events 0 [([5], [0]), ([6], []), ([5], [2]), ([0x20, 0x00, 0x10, 0x00], [])]) := by decide
-- V50: the deadline has passed but the confirmatory sample reads ready; T_DEFAULT_MS = 1
theorem test_eraseSector_hold :
    seen (exec (.eraseSector 0x000000 true)
      (start true [([5], [0]), ([0x20, 0, 0, 0], []), ([5], [1]), ([5], [0])] [10, 2]))
    = some (.ok, false,
        events 0 [([5], [0]), ([0x20, 0, 0, 0], [])] ++ [.t 10] ++ events 0 [([5], [1])] ++ [.t 12]
          ++ events 0 [([5], [0])]) := by decide
-- V43
theorem test_eraseBlock32_nohold :
    seen (exec (.eraseBlock32 0x008000 false)
      (start true [([5], [2]), ([0x52, 0x00, 0x80, 0x00], [])] []))
    = some (.ok, false, events 0 [([5], [2]), ([0x52, 0x00, 0x80, 0x00], [])]) := by decide
-- V51: T_DEFAULT_MS = 1
theorem test_eraseBlock32_timeout :
    seen (exec (.eraseBlock32 0x008000 true)
      (start true [([5], [0]), ([0x52, 0x00, 0x80, 0x00], []), ([5], [1]), ([5], [1])] [10, 2]))
    = some (.timeout, false,
        events 0 [([5], [0]), ([0x52, 0x00, 0x80, 0x00], [])] ++ [.t 10] ++ events 0 [([5], [1])]
          ++ [.t 12] ++ events 0 [([5], [1])]) := by decide
-- V44
theorem test_eraseBlock64_busy : seen (exec (.eraseBlock64 0x010000 false) (start false [([5], [1])] []))
    = some (.busy, false, events 0 [([5], [1])]) := by decide
-- V45
theorem test_eraseBlock64_hold :
    seen (exec (.eraseBlock64 0x7F0000 true)
      (start true [([5], [0]), ([0xD8, 0x7F, 0x00, 0x00], []), ([5], [0])] [9]))
    = some (.ok, false,
        events 0 [([5], [0]), ([0xD8, 0x7F, 0x00, 0x00], [])] ++ [.t 9] ++ events 0 [([5], [0])]) := by
  decide
-- V46
theorem test_eraseChip_nohold :
    seen (exec (.eraseChip false) (start false [([5], [0]), ([6], []), ([5], [2]), ([0xC7], [])] []))
    = some (.ok, false, events 0 [([5], [0]), ([6], []), ([5], [2]), ([0xC7], [])]) := by decide
-- V47, the first pass: T_CHIP_ERASE_MS = 3, elapsed 1
theorem test_eraseChip_hold_waits :
    (match exec (.eraseChip true)
        (start true [([5], [0]), ([0xC7], []), ([5], [1])] [0, 1]) with
      | .next t => some (t.phase, t.trace)
      | .fault _ => none
      | .refused _ => none)
    = some (.run 8 (.poll 3),
        events 0 [([5], [0]), ([0xC7], [])] ++ [.t 0] ++ events 0 [([5], [1])] ++ [.t 1, .d 1000]) := by
  decide
-- V60: the fifth byte of the probe is 0x00
theorem test_init_implausible :
    seen (exec (.init 0) (start true [([5], [0]), ([0x9F], [0xEF, 0x40, 0x17, 0, 0])] []))
    = some (.communicationFail, false,
        events 0 [([5], [0]), ([0x9F], [0xEF, 0x40, 0x17, 0, 0])]) := by decide
-- V61
theorem test_init :
    seen (exec (.init 3)
      (start true [([5], [0]), ([0x9F], [0xEF, 0x40, 0x17, 0xEF, 0x40]), ([5], [0]), ([0x66], []),
        ([0x99], [])] []))
    = some (.ok, false,
        events 3 [([5], [0]), ([0x9F], [0xEF, 0x40, 0x17, 0xEF, 0x40]), ([5], [0]), ([0x66], []),
          ([0x99], [])] ++ [.d 35]) := by decide
-- V65
theorem test_getJedec :
    (match exec .getJedec (start false [([5], [0]), ([0x9F], [0xEF, 0x40, 0x17])] []) with
      | .next t => some (t.rspStatus, t.idMfr, t.idType, t.idCap)
      | .fault _ => none
      | .refused _ => none) = some (.ok, 0xEF, 0x40, 0x17) := by decide
-- V66
theorem test_getJedec_busy :
    (match exec .getJedec
        { start false [([5], [1])] [] with idMfr := 0xEF, idType := 0x40, idCap := 0x17 } with
      | .next t => some (t.rspStatus, t.idMfr, t.idType, t.idCap)
      | .fault _ => none
      | .refused _ => none) = some (.busy, 0xEF, 0x40, 0x17) := by decide
-- V80
theorem test_busy :
    (match exec .busy (start false [([5], [3])] []) with
      | .next t => some (t.rspStatus, t.rspBusy, t.wstate)
      | .fault _ => none
      | .refused _ => none) = some (.ok, true, .busy) := by decide
-- V82: bits 7:1 are ignored
theorem test_busy_ignores_other_bits :
    (match exec .busy (start false [([5], [0xFE])] []) with
      | .next t => some (t.rspStatus, t.rspBusy, t.wstate)
      | .fault _ => none
      | .refused _ => none) = some (.ok, false, .ready) := by decide
-- V84
theorem test_waitUntilFree_ready : seen (exec (.waitUntilFree 5) (start false [([5], [0])] [7]))
    = some (.ok, false, [.t 7] ++ events 0 [([5], [0])]) := by decide
-- V87, the last pass: the counter has wrapped and the elapsed time is 11 > 10
theorem test_waitUntilFree_wraps :
    seen (again (again (.next
      { start false [([5], [1]), ([5], [1]), ([5], [1])] [8, 3] with
        phase := .run 0xB (.poll 10), t0 := 4294967290
        env := { Env.initial with
          busIn := answers [([5], [1]), ([5], [1]), ([5], [1])], msIn := [8, 3]
          msCount := 4294967290 } })))
    = some (.timeout, false,
        events 0 [([5], [1])] ++ [.t 2, .d 1000] ++ events 0 [([5], [1])] ++ [.t 5]
          ++ events 0 [([5], [1])]) := by decide
-- V70
theorem test_reset :
    seen (exec .reset (start true [([5], [2]), ([0x66], []), ([0x99], [])] []))
    = some (.ok, false, events 0 [([5], [2]), ([0x66], []), ([0x99], [])] ++ [.d 35]) := by decide
-- V71
theorem test_reset_busy : seen (exec .reset (start true [([5], [1])] []))
    = some (.busy, true, events 0 [([5], [1])]) := by decide
-- V75
theorem test_powerDown : seen (exec .powerDown (start true [([5], [0]), ([0xB9], [])] []))
    = some (.ok, true, events 0 [([5], [0]), ([0xB9], [])] ++ [.d 10]) := by decide
-- V76
theorem test_powerDown_busy : seen (exec .powerDown (start true [([5], [1])] []))
    = some (.busy, true, events 0 [([5], [1])]) := by decide
-- V77: no sample is taken
theorem test_releasePowerDown :
    (match exec .releasePowerDown { start true [([0xAB], [])] [] with wstate := .busy } with
      | .next t => some (t.rspStatus, t.wstate, t.trace)
      | .fault _ => none
      | .refused _ => none) = some (.ok, .busy, events 0 [([0xAB], [])] ++ [.d 10]) := by decide
-- V90
theorem test_reservedF : seen (exec .reservedF (start true [] [])) = some (.notValid, true, []) := by
  decide

/-! ## Wire commands: V17's frames behind the guard of their rule -/

theorem test_wren : seen (exec .wren (start false [([5], [0]), ([6], [])] []))
    = some (.ok, true, events 0 [([5], [0]), ([6], [])]) := by decide
theorem test_wrdi : seen (exec .wrdi (start true [([5], [0]), ([4], [])] []))
    = some (.ok, false, events 0 [([5], [0]), ([4], [])]) := by decide
-- V13
theorem test_rdsr1 :
    ([0x00, 0x01, 0x02, 0x03, 0x80, 0xFE, 0xFF].map fun b : Byte =>
      match exec .rdsr1 (start false [([5], [b])] []) with
      | .next t => some t.wstate
      | .fault _ => none
      | .refused _ => none)
    = [some .ready, some .busy, some .ready, some .busy, some .ready, some .ready, some .busy] := by
  decide
theorem test_pp :
    seen (exec (.pp 0x7FFF00 (List.replicate 256 0xFF))
      (start true [([5], [0]), (0x02 :: 0x7F :: 0xFF :: 0x00 :: List.replicate 256 0xFF, [])] []))
    = some (.ok, false,
        events 0 [([5], [0]), (0x02 :: 0x7F :: 0xFF :: 0x00 :: List.replicate 256 0xFF, [])]) := by
  decide +kernel
theorem test_read :
    (match exec (.read 0x7FFF00) (start true [([5], [0]), ([0x03, 0x7F, 0xFF, 0x00], pageA)] []) with
      | .next t => some (t.welTrack, t.pb.toList)
      | .fault _ => none
      | .refused _ => none) = some (true, pageA) := by decide +kernel
theorem test_se :
    seen (exec (.se 0x7FF000) (start true [([5], [0]), ([0x20, 0x7F, 0xF0, 0x00], [])] []))
    = some (.ok, false, events 0 [([5], [0]), ([0x20, 0x7F, 0xF0, 0x00], [])]) := by decide
theorem test_be32 :
    seen (exec (.be32 0xABCDEF) (start true [([5], [0]), ([0x52, 0xAB, 0xCD, 0xEF], [])] []))
    = some (.ok, false, events 0 [([5], [0]), ([0x52, 0xAB, 0xCD, 0xEF], [])]) := by decide
theorem test_be64 :
    seen (exec (.be64 0xFF0000) (start true [([5], [0]), ([0xD8, 0xFF, 0x00, 0x00], [])] []))
    = some (.ok, false, events 0 [([5], [0]), ([0xD8, 0xFF, 0x00, 0x00], [])]) := by decide
theorem test_ce : seen (exec .ce (start true [([5], [0]), ([0xC7], [])] []))
    = some (.ok, false, events 0 [([5], [0]), ([0xC7], [])]) := by decide
theorem test_pd : seen (exec .pd (start true [([5], [0]), ([0xB9], [])] []))
    = some (.ok, true, events 0 [([5], [0]), ([0xB9], [])]) := by decide
theorem test_rpd : seen (exec .rpd (start true [([0xAB], [])] []))
    = some (.ok, true, events 0 [([0xAB], [])]) := by decide
theorem test_jedec_ident :
    (match exec (.jedec .ident) (start false [([5], [0]), ([0x9F], [0xEF, 0x40, 0x17])] []) with
      | .next t => some (t.idMfr, t.idType, t.idCap, t.trace)
      | .fault _ => none
      | .refused _ => none)
    = some (0xEF, 0x40, 0x17, events 0 [([5], [0]), ([0x9F], [0xEF, 0x40, 0x17])]) := by decide
theorem test_jedec_probe :
    (match exec (.jedec .probe) (start false [([5], [0]), ([0x9F], [0xEF, 0x40, 0x17, 3, 4])] []) with
      | .next t => some (t.probe.toList, t.idMfr)
      | .fault _ => none
      | .refused _ => none) = some ([0xEF, 0x40, 0x17, 3, 4], 0) := by decide
theorem test_rsten : seen (exec .rsten (start true [([5], [0]), ([0x66], [])] []))
    = some (.ok, true, events 0 [([5], [0]), ([0x66], [])]) := by decide
theorem test_rst : seen (exec .rst (start true [([0x99], [])] []))
    = some (.ok, false, events 0 [([0x99], [])]) := by decide
theorem test_mfrDevId :
    (match exec .mfrDevId (start false [([5], [0]), ([0x90], [0xFF, 0xFF, 0xFF, 0xEF, 0x16])] []) with
      | .next t => some (t.probe.toList, t.trace)
      | .fault _ => none
      | .refused _ => none)
    = some ([0xFF, 0xFF, 0xFF, 0xEF, 0x16],
        events 0 [([5], [0]), ([0x90], [0xFF, 0xFF, 0xFF, 0xEF, 0x16])]) := by decide

/-! ## The reference chip -/

/-- An idle block with REFCHIP attached. -/
def chipStart (wel : Bool) (c : RefChip) : State :=
  { State.resetWith cfg with welTrack := wel, env := { Env.initial with bus := .refChip, chip := c } }

/-- What REFCHIP answered: the received bytes of a trace. -/
def received : Host.Outcome State Fault Refusal → List Byte
  | .next t => t.trace.filterMap fun
    | .x out a => if out = 0 then some a else none
    | .sel _ _ => none
    | .desel _ => none
    | .t _ => none
    | .d _ => none
  | .fault _ => []
  | .refused _ => []

-- P1, line 2: the guard reads 00, then the identification
theorem test_refchip_jedec : received (exec .getJedec (chipStart false .powerUp))
    = [0x00, 0xEF, 0x40, 0x17] := by decide
-- P4, line 2: a sleeping chip reads FF
theorem test_refchip_asleep :
    received (exec .busy (chipStart false { RefChip.powerUp with pd := true })) = [0xFF] := by decide
-- P4: it "returns FF to everything", to the opcode too
theorem test_refchip_asleep_opcode :
    (match exec .busy (chipStart false { RefChip.powerUp with pd := true }) with
      | .next t => t.trace == statusFrame (chipStart false RefChip.powerUp) 0xFF 0xFF
      | .fault _ => false
      | .refused _ => false) = true := by decide
-- V42: the sector 0x001000 to 0x001FFF is erased, its neighbours are not
theorem test_refchip_erases_sector :
    (match exec (.eraseSector 0x001234 false)
        (chipStart true
          { RefChip.powerUp with
            wel := true
            mem := [(0x000FFF, 0x11), (0x001000, 0x22), (0x001FFF, 0x33), (0x002000, 0x44)] }) with
      | .next t => some t.env.chip.mem
      | .fault _ => none
      | .refused _ => none) = some [(0x000FFF, 0x11), (0x002000, 0x44)] := by decide
-- P5, between lines 1 and 2
theorem test_refchip_power_cycle :
    (match step { chipStart true
          { RefChip.powerUp with wel := true, mem := [(5, 0x12)] } with hostIn := [.chipPowerCycle] } with
      | .next t => some (t.welTrack, t.env.chip.wel, t.env.chip.mem)
      | .fault _ => none
      | .refused _ => none) = some (true, false, [(5, 0x12)]) := by decide

/-! ## Witnesses: a state and operands that meet the hypotheses of each statement

A statement about every environment is met by a scripted one; the values are the vectors' where there
is one. -/

/-- Idle, the next sample reads ready. -/
def readyS (wel : Bool) : State := start wel [([5], [0]), ([5], [0])] []

/-- Idle, the next sample reads busy. -/
def busyS (wel : Bool) : State := start wel [([5], [1])] []

/-- Awake, free REFCHIP with its latch as given and one byte in its array. -/
def chipS (wel latch : Bool) : State :=
  chipStart wel { RefChip.powerUp with wel := latch, mem := [(0x001000, 0x12)] }

theorem cfg_wf : cfg.wf = true := by decide

theorem witness_DecodeInvertsEncode :
    cfg.wf = true ∧ (Instr.pp 0xFFFFFF (List.replicate 256 0xFF)).wf cfg = true
      ∧ (Instr.waitUntilFree 0xFFFFFFFF).wf cfg = true ∧ (Instr.init 255).wf cfg = true := by decide +kernel

theorem witness_EncodeInvertsDecodeOfFrames :
    decodeFrame cfg [0xD8, 0xFF, 0xFF, 0xFF] = .ok (.be64 0xFFFFFF) := by decide

/-- One pair of different words for each clause. -/
theorem witness_UnusedRequestFieldsIgnored :
    (reqOpField 0x1FFFFFFFFFFFFFFF = reqOpField 0x1000000000000000 ∧
      reqOpField 0x1FFFFFFFFFFFFFFF ∈ [1, 2, 9, 10, 12, 13, 14, 15]) ∧
    (reqOpField 0x00000000000000FF = 0 ∧
      reqCsIdField cfg 0x00000000000000FF = reqCsIdField cfg 0x0FFFFFFFFFFFFFFF) ∧
    (reqOpField 0x3F00000100000000 ∈ [3, 4] ∧
      reqAddrField 0x3F00000100000000 = reqAddrField 0x30000001FFFFFFFF) ∧
    (reqOpField 0x7800000100000000 ∈ [5, 6, 7] ∧
      reqAddrField 0x7800000100000000 = reqAddrField 0x7F000001FFFFFFFF ∧
      reqHoldField 0x7800000100000000 = reqHoldField 0x7F000001FFFFFFFF) ∧
    (reqOpField 0x8800000000000000 = 8 ∧
      reqHoldField 0x8800000000000000 = reqHoldField 0x8FFFFFFFFFFFFFFF) ∧
    (reqOpField 0xB0000000FFFFFFFF = 11 ∧
      reqTimeoutField 0xB0000000FFFFFFFF = reqTimeoutField 0xBFFFFFFFFFFFFFFF) := by decide

theorem witness_ForeignFirstByteRefused :
    (∀ op : WireOp, cfg.opc op ≠ 0x0B) ∧
      { readyS false with hostIn := [.frame [0x0B, 0]] }.phase = .idle := by
  refine ⟨fun op => ?_, rfl⟩
  cases op <;> decide

theorem witness_HardwareResetValues :
    { readyS true with hostIn := [.hardReset], phase := .run 0xB (.poll 5) }.hostIn
      = .hardReset :: [] := rfl

theorem witness_UnwrittenResultReadFaults :
    (readyS false).phase = .idle ∧ (readyS false).rspBusyKnown = false
      ∧ (readyS false).idKnown = false
      ∧ { readyS false with rspBusyKnown := true, idKnown := true }.idKnown = true
      ∧ (∃ t, exec .busy (busyS false) = .next t)
      ∧ (∃ t, exec .getJedec (readyS false) = .next t ∧ t.rspStatus = .ok)
      ∧ (∃ t, exec .getJedec (busyS false) = .next t ∧ t.rspStatus ≠ .ok) :=
  ⟨rfl, rfl, rfl, rfl, ⟨_, rfl⟩, ⟨_, rfl, by decide⟩, ⟨_, rfl, by decide⟩⟩

theorem witness_StepRunsDecodedRequest :
    { readyS false with hostIn := [.request 0x3000010000000000] }.phase = .idle ∧
      { readyS false with hostIn := [.request 0x3000010000000000] }.hostIn
        = .request 0x3000010000000000 :: [] := ⟨rfl, rfl⟩

theorem witness_StepRunsDecodedFrame :
    { readyS false with hostIn := [.frame [0x20, 0x7F, 0xF0, 0x00]] }.phase = .idle ∧
      decode cfg (.frame [0x20, 0x7F, 0xF0, 0x00]) = .ok (.se 0x7FF000) := by decide

theorem witness_RequestPendsWhileWaiting :
    { busyS false with phase := .run 0xB (.poll 5), hostIn := [.request 0] }.phase
        = .run 0xB (.poll 5) ∧
      ∀ a ∈ { busyS false with phase := .run 0xB (.poll 5), hostIn := [.request 0] }.hostIn.head?,
        a.immediate = false := by
  refine ⟨rfl, fun a ha => ?_⟩
  cases ha
  rfl

theorem witness_IdleBlockWaitsForHost :
    (readyS false).phase = .idle ∧ (readyS false).hostIn = [] ∧
      { readyS false with hostIn := [.setPB (Vector.replicate 256 1)] }.phase = .idle ∧
      { readyS false with hostIn := [.chipPowerCycle] }.phase = .idle := ⟨rfl, rfl, rfl, rfl⟩

theorem witness_FetchedWordRunsNext :
    decodeTableWord 64 0xB0000000FFFFFFFF = some (.waitUntilFree 0xFFFFFFFF) ∧
      decodeTableWord 8 0x06 = some .wren := by decide

theorem witness_GuardedBareCommandsSend : SampleReady (readyS false) := by decide
theorem witness_AddressedCommandsSend : SampleReady (readyS true) := by decide
theorem witness_ReadCommandStoresPage : SampleReady (readyS false) := by decide
theorem witness_IdentificationCommandsStore : SampleReady (readyS false) := by decide

theorem witness_GuardedCommandsStopWhenBusy :
    SampleBusy (busyS true) ∧ commandOf (.pp 0 []) = some .pp
      ∧ WireOp.pp ∉ [WireOp.rdsr1, .rpd, .rst] := by decide

theorem witness_GuardedRequestsReturnBusy :
    SampleBusy (busyS false) ∧ SampleBusy (busyS true) := by decide

/-- The width at which R99 names the bits. -/
theorem witness_RequestWordFields : cfg.csIdW = 8 := rfl

theorem witness_EnableWritingSetsMirror : SampleReady (readyS false) ∧ SampleBusy (busyS false) := by
  decide
theorem witness_DisableWritingClearsMirror : SampleReady (readyS true) ∧ SampleBusy (busyS true) := by
  decide
theorem witness_GetJedecReportsBytesInOrder :
    SampleReady (readyS false) ∧ SampleBusy (busyS false) := by decide
theorem witness_ResetPairIsContiguous : SampleReady (readyS true) ∧ SampleBusy (busyS true) := by decide
theorem witness_PowerDownSettlesOnlyWhenSent :
    SampleReady (readyS true) ∧ SampleBusy (busyS true) := by decide
theorem witness_ReadPageFillsBuffer : SampleReady (readyS false) ∧ SampleBusy (busyS false) := by decide

theorem witness_AutoEnableComesFirst :
    (readyS false).welTrack = false ∧ SampleReady (readyS false) ∧ (busyS false).welTrack = false
      ∧ SampleBusy (busyS false) := by decide

/-- V33, V48. -/
theorem witness_BusyAfterAutoEnableKeepsMirror :
    ∃ s s1, s.welTrack = false ∧ SampleReady s ∧ exec .wren s = .next s1 ∧ SampleBusy s1 :=
  ⟨start false [([5], [0]), ([6], []), ([5], [1])] [], _, rfl, by decide, rfl, by decide⟩

theorem witness_WritePageSendsBuffer : (readyS true).welTrack = true ∧ SampleReady (readyS true) := by
  decide
theorem witness_EraseWithoutHoldReturns :
    (readyS true).welTrack = true ∧ SampleReady (readyS true) := by decide
theorem witness_EraseWithHoldWaits :
    (readyS true).welTrack = true ∧ SampleReady (readyS true) ∧
      (readyS true).params.tDefaultMs = 1 ∧ (readyS true).params.tChipEraseMs = 3 := by decide

/-- V62; V60; V61 with a reset whose guard reads ready. The identifiers 3 and 255 fit the default width. -/
theorem witness_InitProbesThenResets :
    (3 : CsId) < 2 ^ (busyS true).params.csIdW ∧ (255 : CsId) < 2 ^ (busyS true).params.csIdW ∧
    SampleBusy (busyS true) ∧
    (∃ s s2, SampleReady s ∧ exec (.jedec .probe) (initConfigure 3 s) = .next s2 ∧
      s2.probe[4] = 0x00) ∧
    (∃ s s2, SampleReady s ∧ exec (.jedec .probe) (initConfigure 3 s) = .next s2 ∧
      s2.probe[4] ≠ 0x00 ∧ SampleReady s2) :=
  ⟨by decide, by decide, by decide,
   ⟨start true [([5], [0]), ([0x9F], [0xEF, 0x40, 0x17, 0, 0])] [], _, by decide, rfl, by decide⟩,
   ⟨start true [([5], [0]), ([0x9F], [0xEF, 0x40, 0x17, 0xEF, 0x40]), ([5], [0])] [], _, by decide,
    rfl, by decide, by decide⟩⟩

/-- V84. -/
theorem witness_WaitReturnsAtReadySample : SampleReady (nowMs (start false [([5], [0])] [7])).2 := by
  decide

/-- A block in the loop of WAIT_UNTIL_FREE 10 that began at count 0, at count `c`. -/
def polling (fs : List Tx) (c : Nat) : State :=
  { start false fs [] with
    phase := .run 0xB (.poll 10), env := { Env.initial with busIn := answers fs, msIn := [c] } }

/-- One state for each clause; elapsed exactly 10 is not past the deadline, 11 is. -/
theorem witness_WaitLoopPass :
    SampleReady (polling [([5], [0])] 0) ∧
    (∃ s1, exec .rdsr1 (polling [([5], [1])] 10) = .next s1 ∧ SampleBusy (polling [([5], [1])] 10) ∧
      ¬ (10 : Millis) < (nowMs s1).1 - (polling [([5], [1])] 10).t0) ∧
    (∃ s1, exec .rdsr1 (polling [([5], [1]), ([5], [0])] 11) = .next s1 ∧
      SampleBusy (polling [([5], [1]), ([5], [0])] 11) ∧
      (10 : Millis) < (nowMs s1).1 - (polling [([5], [1]), ([5], [0])] 11).t0 ∧
      SampleReady (nowMs s1).2) ∧
    (∃ s1, exec .rdsr1 (polling [([5], [1]), ([5], [1])] 11) = .next s1 ∧
      (10 : Millis) < (nowMs s1).1 - (polling [([5], [1]), ([5], [1])] 11).t0 ∧
      SampleBusy (nowMs s1).2) :=
  ⟨by decide, ⟨_, rfl, by decide, by decide⟩, ⟨_, rfl, by decide, by decide, by decide⟩,
   ⟨_, rfl, by decide, by decide⟩⟩

theorem witness_StatusMatrix :
    (busyS true).hostIn = [] ∧
    (∃ t, EndsIn (exec (.eraseSector 0 true) (busyS true)) t) ∧
    (∃ t, EndsIn (exec (.init 0) (busyS true)) t) ∧
    (∃ t, EndsIn (exec .reservedF (busyS true)) t) ∧
    requestCode (.eraseSector 0 true) ≠ none ∧ requestCode (.init 0) ≠ none ∧
    requestCode .reservedF ≠ none :=
  ⟨rfl, ⟨_, _, 0, rfl, rfl, by decide⟩, ⟨_, _, 0, rfl, rfl, by decide⟩,
    ⟨_, _, 0, rfl, rfl, by decide⟩, by decide, by decide, by decide⟩

/-- The invariant holds of a small state, and that state steps. -/
theorem witness_StepKeepsInvariant : Inv (readyS false) ∧ ∃ t, step (readyS false) = .next t :=
  ⟨⟨cfg_wf, rfl, fun h => absurd rfl h, rfl, rfl, rfl, rfl, by decide⟩, ⟨_, rfl⟩⟩

theorem witness_StepKeepsGuardDiscipline :
    GuardInv { readyS false with hostIn := [.request 0x3000010000000000] } ∧
      ∃ t, step { readyS false with hostIn := [.request 0x3000010000000000] } = .next t :=
  ⟨⟨cfg_wf, rfl, by decide⟩, ⟨_, rfl⟩⟩

theorem witness_StepOnlyAppends :
    ∃ t, step { readyS false with hostIn := [.request 0xA000000000000000] } = .next t := ⟨_, rfl⟩

/-- V87's wrap, and the largest elapsed time a reading shows. -/
theorem witness_CounterReadsTrueCount :
    ((4294967290 : Nat) ≤ 4294967301 ∧ 4294967301 - 4294967290 < 2 ^ 32) ∧
      ((5 : Nat) ≤ 5 + (2 ^ 32 - 1) ∧ 5 + (2 ^ 32 - 1) - 5 < 2 ^ 32) := by decide

/-- The clauses about the operations that enable writing first: a busy and a ready first sample. -/
theorem witness_MirrorWriters :
    (∃ t, exec (.writePage 0) (readyS true) = .next t ∧ SampleReady (readyS true)) ∧
      (∃ t, exec (.eraseSector 0 true) (busyS false) = .next t ∧ SampleBusy (busyS false)) ∧
      (∃ t, exec .reset (busyS true) = .next t) :=
  ⟨⟨_, rfl, by decide⟩, ⟨_, rfl, by decide⟩, ⟨_, rfl⟩⟩

/-- V88 with a second busy sample: one pass, timeout 1, elapsed 2. -/
theorem witness_TimeoutIsNeverEarly :
    ∃ s t, s.hostIn = [] ∧ EndsIn (exec (.waitUntilFree 1) s) t ∧ t.rspStatus = .timeout :=
  ⟨start false [([5], [1]), ([5], [1])] [0, 2], _, rfl, ⟨_, 0, rfl, rfl, by decide⟩, by decide⟩

/-- A held sector erase that waits one pass: mirror set, and mirror clear with the WREN before it. -/
theorem witness_TimeoutIsNeverEarly_erase :
    (∃ s s1 t, s.hostIn = [] ∧ s.welTrack = true ∧ exec (.se 0) s = .next s1 ∧
      EndsIn (exec (.eraseSector 0 true) s) t ∧ t.rspStatus = .timeout) ∧
    (∃ s s0 s1 t, s.hostIn = [] ∧ s.welTrack = false ∧ exec .wren s = .next s0 ∧
      exec (.se 0) s0 = .next s1 ∧ EndsIn (exec (.eraseSector 0 true) s) t ∧
      t.rspStatus = .timeout) :=
  ⟨⟨start true [([5], [0]), ([0x20, 0, 0, 0], []), ([5], [1]), ([5], [1])] [0, 2], _, _, rfl, rfl, rfl,
    ⟨_, 0, rfl, rfl, by decide⟩, by decide⟩,
   ⟨start false [([5], [0]), ([6], []), ([5], [0]), ([0x20, 0, 0, 0], []), ([5], [1]), ([5], [1])] [0, 2],
    _, _, _, rfl, rfl, rfl, rfl, ⟨_, 0, rfl, rfl, by decide⟩, by decide⟩⟩

/-- A held chip erase, whose timeout is its own (3). -/
theorem witness_TimeoutIsNeverEarly_chip :
    ∃ s s1 t, s.hostIn = [] ∧ s.welTrack = true ∧ exec .ce s = .next s1 ∧
      EndsIn (exec (.eraseChip true) s) t ∧ t.rspStatus = .timeout :=
  ⟨start true [([5], [0]), ([0xC7], []), ([5], [1]), ([5], [1])] [0, 4], _, _, rfl, rfl, rfl,
    ⟨_, 0, rfl, rfl, by decide⟩, by decide⟩

theorem witness_WaitEndsWhenTimeAdvances :
    (start false [] [1, 1, 4294967293]).hostIn = [] ∧
      (1 : Millis).toNat + 2 ≤ (start false [] [1, 1, 4294967293]).env.msIn.length ∧
      ∀ a ∈ (start false [] [1, 1, 4294967293]).env.msIn, 1 ≤ a ∧ a + (1 : Millis).toNat < 2 ^ 32 := by
  decide

/-- REFCHIP that never becomes ready, and a counter that stands still for five readings. -/
def frozen : State :=
  { chipStart false { RefChip.powerUp with busyLeft := .forever } with
    env :=
      { Env.initial with
        bus := .refChip, msIn := [0, 0, 0, 0, 0]
        chip := { RefChip.powerUp with busyLeft := .forever } } }

theorem witness_FrozenWaitNeverEnds :
    frozen.params.wf = true ∧ frozen.hostIn = [] ∧ frozen.env.bus = .refChip ∧
      frozen.env.chip.pd = false ∧ frozen.env.chip.busyLeft = .forever ∧
      3 + 2 ≤ frozen.env.msIn.length ∧ ∀ a ∈ frozen.env.msIn, a = 0 := by decide

/-- An absent chip's input line. -/
def absent (b : Byte) : State :=
  { State.resetWith cfg with env := { Env.initial with busIn := List.replicate 300 b } }

theorem witness_AbsentChipIsSeenOnlyByInit :
    (absent 0).env.bus = .anyDevice ∧ 300 ≤ (absent 0).env.busIn.length ∧
      (∀ b ∈ (absent 0).env.busIn, b = 0x00) ∧ 300 ≤ (absent 0xFF).env.busIn.length ∧
      (∀ b ∈ (absent 0xFF).env.busIn, b = 0xFF) :=
  ⟨rfl, Nat.le_of_eq (List.length_replicate ..).symm, fun _ h => List.eq_of_mem_replicate h,
   Nat.le_of_eq (List.length_replicate ..).symm, fun _ h => List.eq_of_mem_replicate h⟩

/-- A wait against the line reading all ones that ends: timeout 1, elapsed 2. -/
def absentWait : State :=
  { absent 0xFF with env := { (absent 0xFF).env with msIn := [0, 2] } }

theorem witness_AbsentChipIsSeenOnlyByInit_wait :
    absentWait.env.bus = .anyDevice ∧ 300 ≤ absentWait.env.busIn.length ∧
      2 * 0 + 4 ≤ absentWait.env.busIn.length ∧
      (∀ b ∈ absentWait.env.busIn, b = 0xFF) ∧ absentWait.hostIn = [] ∧
      ∃ s1, exec (.waitUntilFree 1) absentWait = .next s1 ∧
        Host.Core.run Sys2Proof.core 0 s1 = .next s1 ∧ s1.phase = .idle :=
  ⟨rfl, Nat.le_of_eq (List.length_replicate ..).symm,
   Nat.le_trans (by decide) (Nat.le_of_eq (List.length_replicate ..).symm : 300 ≤ _),
   fun _ h => List.eq_of_mem_replicate h, rfl, _, rfl, rfl, by decide +kernel⟩

theorem witness_FlashUntouchedByOthers :
    (chipS true true).params.wf = true ∧ (readyS true).env.bus = .anyDevice ∧
      ∃ t, exec (.readPage 0x001000) (chipS true true) = .next t :=
  ⟨by decide, rfl, ⟨_, rfl⟩⟩

/-- The bytes next to the unit on either side, at each size. -/
theorem witness_FlashStoresStayInUnit :
    (∃ t, exec (.eraseSector 0x001234 false) (chipS true true) = .next t) ∧
      (chipS true true).params.wf = true ∧
      ¬ ((0x001100 : Addr).toNat ≤ 0x0010FF) ∧ ¬ (0x001200 < (0x001100 : Addr).toNat + 256) ∧
      ¬ ((0x001234 : Addr).toNat - (0x001234 : Addr).toNat % 4096 ≤ 0x000FFF) ∧
      ¬ (0x002000 < (0x001234 : Addr).toNat - (0x001234 : Addr).toNat % 4096 + 4096) ∧
      ¬ (0x010000 < (0x008123 : Addr).toNat - (0x008123 : Addr).toNat % 32768 + 32768) ∧
      ¬ (0x020000 < (0x018123 : Addr).toNat - (0x018123 : Addr).toNat % 65536 + 65536) :=
  ⟨⟨_, rfl⟩, by decide⟩

theorem chipS_ready (wel latch : Bool) : RefReady (chipS wel latch) := ⟨rfl, rfl, rfl⟩

/-- Both an armed chip and one that is not; a busy one is `frozen`. -/
theorem witness_ChipAnswersControlCommands :
    (chipS true true).params.wf = true ∧ RefReady (chipS true true) ∧
      (chipS true true).env.chip.rsten = false ∧
      RefReady (chipStart true { RefChip.powerUp with wel := true, rsten := true }) ∧
      (0x7FFF00 : Addr).toNat % 256 = 0 ∧
      (0x7FFF00 : Addr).toNat < (chipS true true).params.capacityBytes ∧
      frozen.env.bus = .refChip ∧ frozen.env.chip.pd = false ∧
      frozen.env.chip.busyLeft = .forever ∧
      (chipStart true { RefChip.powerUp with busyLeft := .samples 2 }).env.bus = .refChip ∧
      (chipStart true { RefChip.powerUp with busyLeft := .samples 2 }).env.chip.pd = false :=
  ⟨by decide, chipS_ready _ _, rfl, ⟨rfl, rfl, rfl⟩, by decide, by decide, rfl, rfl, rfl, rfl, rfl⟩

theorem witness_ChipProgramsPage :
    (chipS false true).params.wf = true ∧ RefReady (chipS false true) ∧
      (chipS false true).env.chip.mem.wf = true ∧ (List.replicate 256 (0x55 : Byte)).length = 256 ∧
      (0x7FFF00 : Addr).toNat % 256 = 0 ∧
      (0x7FFF00 : Addr).toNat < (chipS false true).params.capacityBytes ∧
      (chipS false true).env.chip.wel = true ∧ (chipS false false).env.chip.wel = false :=
  ⟨by decide, chipS_ready _ _, by decide, List.length_replicate .., by decide, by decide, rfl, rfl⟩

theorem witness_ChipErasesUnit :
    (chipS false true).params.wf = true ∧ RefReady (chipS false true) ∧
      (chipS false true).env.chip.wel = true ∧ RefReady (chipS false false) ∧
      (chipS false false).env.chip.wel = false ∧
      (0x7FFFFF : Addr).toNat < (chipS false true).params.capacityBytes :=
  ⟨by decide, chipS_ready _ _, rfl, chipS_ready _ _, rfl, by decide⟩

-- R240, R25: "The five statuses, their codes on `rsp_status`" and the encoding of `wstate`
theorem test_status_codes :
    (statusCode .ok, statusCode .communicationFail, statusCode .busy, statusCode .timeout,
      statusCode .notValid, wstateCode .ready, wstateCode .busy, wstateCode .timedOut) =
      (0, 1, 2, 3, 4, 0, 1, 2) := by decide

theorem witness_ChipIgnoresFramesWhileBusy :
    frozen.params.wf = true ∧ frozen.env.bus = .refChip ∧ frozen.env.chip.pd = false ∧
      frozen.env.chip.busyLeft ≠ .samples 0 ∧ WireOp.pp ≠ .rdsr1 ∧ WireOp.pp ≠ .rpd := by decide

/-- P4. -/
theorem witness_ChipAsleepReadsBusy :
    (chipStart false { RefChip.powerUp with pd := true }).params.wf = true ∧
      (chipStart false { RefChip.powerUp with pd := true }).env.bus = .refChip ∧
      (chipStart false { RefChip.powerUp with pd := true }).env.chip.pd = true ∧
      Instr.rst ≠ .releasePowerDown ∧ Instr.rst ≠ .rpd := by decide

/-- P5. -/
theorem witness_DesyncedMirrorLosesWrite :
    (chipS true false).params.wf = true ∧ RefReady (chipS true false) ∧
      (chipS true false).welTrack = true ∧ (chipS true false).env.chip.wel = false ∧
      (0x000000 : Addr).toNat % 256 = 0 ∧
      (0x000000 : Addr).toNat < (chipS true false).params.capacityBytes :=
  ⟨by decide, chipS_ready _ _, rfl, rfl, by decide, by decide⟩

/-! ### The round trip of P2, lines 2 to 4: every premise of PageRoundTrip at once -/

/-- One busy sample after a program, an empty array, the page buffer 12 FF FF ... -/
def tripS : State :=
  { chipStart false RefChip.powerUp with
    pb := (Vector.replicate 256 0xFF).set 0 0x12
    env :=
      { Env.initial with
        bus := .refChip, msIn := [1005, 0]
        chip :=
          { RefChip.powerUp with
            fixture := { RefChip.powerUp.fixture with busyPp := .samples 1 } } } }

def after : Host.Outcome State Fault Refusal → State → State
  | .next t, _ => t
  | .fault _, s => s
  | .refused _, s => s

def trip1 : State := after (exec (.writePage 0x001100) tripS) tripS
def trip2 : State := after (step (after (exec (.waitUntilFree 10) trip1) trip1)) trip1
def trip3 : State :=
  after (exec (.readPage 0x001100) { trip2 with pb := Vector.replicate 256 0xAA }) trip2

/-- Every instruction answers a next state. -/
theorem exec_after (i : Instr) (s u : State) : exec i s = .next (after (exec i s) u) := by
  cases i <;> rfl

theorem trip1_ok : trip1.rspStatus = .ok := by decide +kernel

theorem trip2_idle : trip2.phase = .idle ∧ trip2.rspStatus = .ok := by decide +kernel

theorem trip3_ok : trip3.rspStatus = .ok := by decide +kernel

theorem trip_wait_ends : EndsIn (exec (.waitUntilFree 10) trip1) trip2 := by
  refine ⟨after (exec (.waitUntilFree 10) trip1) trip1, 1, exec_after .., ?_, trip2_idle.1⟩
  have hp : (after (exec (.waitUntilFree 10) trip1) trip1).phase = .run 0xB (.poll 10) := by
    decide +kernel
  have hh : (after (exec (.waitUntilFree 10) trip1) trip1).hostIn = [] := by decide +kernel
  have hs : ∀ u : State, u.phase = .run 0xB (.poll 10) → u.hostIn = [] →
      Host.Core.run Sys2Proof.core 1 u = .next (after (step u) trip1) := by
    intro u h1 h2
    have h3 : Sys2Proof.core.step u = .next (waitPass 0xB 10 u) :=
      step_run h1 (by simp [h2])
    have h4 : step u = .next (waitPass 0xB 10 u) := h3
    simp only [Host.Core.run, h3, h4, after]
  exact hs _ hp hh

theorem witness_PageRoundTrip :
    tripS.params.wf = true ∧ RefReady tripS ∧ tripS.hostIn = [] ∧ tripS.env.chip.mem.wf = true ∧
      (tripS.welTrack = true → tripS.env.chip.wel = true) ∧ (0x001100 : Addr).toNat % 256 = 0 ∧
      (0x001100 : Addr).toNat < tripS.params.capacityBytes ∧
      tripS.env.chip.mem.pageErased (0x001100 : Addr).toNat ∧
      exec (.writePage 0x001100) tripS = .next trip1 ∧ trip1.rspStatus = .ok ∧
      EndsIn (exec (.waitUntilFree 10) trip1) trip2 ∧ trip2.rspStatus = .ok ∧
      exec (.readPage 0x001100) { trip2 with pb := Vector.replicate 256 0xAA } = .next trip3 ∧
      trip3.rspStatus = .ok :=
  ⟨by decide, ⟨rfl, rfl, rfl⟩, rfl, rfl, fun h => absurd h (by decide), by decide, by decide,
   fun _ _ => rfl, exec_after .., trip1_ok, trip_wait_ends, trip2_idle.2, exec_after .., trip3_ok⟩

end Sys2Proof.Machine.Tests
end

/-! ## What one step can do -/

section
namespace Sys2Proof.Machine

/-- Everything a step that answers a next state can do, guards included (R24, R31, R41, R270). -/
inductive StepShape (s : State) : State → Prop
  | rest (hp : s.phase = .idle) (hh : s.hostIn = []) : StepShape s s
  | setPB {buf rest} (hp : s.phase = .idle) (hh : s.hostIn = .setPB buf :: rest) :
      StepShape s { s with pb := buf, hostIn := rest }
  | readResult {r rest b} (hp : s.phase = .idle) (hh : s.hostIn = .readResult r :: rest)
      (hr : readResult r s = .ok b) : StepShape s { s with hostIn := rest }
  | hardReset {rest} (hh : s.hostIn = .hardReset :: rest) :
      StepShape s (hardReset { s with hostIn := rest })
  | chipPowerCycle {rest} (hh : s.hostIn = .chipPowerCycle :: rest) :
      StepShape s (chipPowerCycle { s with hostIn := rest })
  | request {w rest t} (hp : s.phase = .idle) (hh : s.hostIn = .request w :: rest)
      (he : exec (decodeRequest s.params w) (accept w { s with hostIn := rest }) = .next t) :
      StepShape s t
  | frame {bytes i rest t} (hp : s.phase = .idle) (hh : s.hostIn = .frame bytes :: rest)
      (hd : decodeFrame s.params bytes = .ok i) (he : exec i { s with hostIn := rest } = .next t) :
      StepShape s t
  | latched {op t} (hp : s.phase = .run op .start) (he : exec (latchedInstr op s) s = .next t) :
      StepShape s t
  | pass {op timeout} (hp : s.phase = .run op (.poll timeout)) :
      StepShape s (waitPass op timeout s)

variable {s t : State}

/-- A step of an idle block is the host's action. -/
theorem step_idle (hp : s.phase = .idle) : step s = idleStep s := by
  simp only [step, advance, hp]

/-- A hardware reset at the head of the host's list acts in every phase. -/
theorem step_hardReset {rest : List HostAction} (hh : s.hostIn = .hardReset :: rest) :
    step s = .next (hardReset { s with hostIn := rest }) := by
  unfold step advance
  split
  · simp only [idleStep, hh]
  · simp only [hh]

theorem runStep_shape {op : BitVec 4} {k : Line} (hp : s.phase = .run op k)
    (h : runStep op k s = .next t) : StepShape s t := by
  cases k with
  | start => exact .latched hp h
  | poll timeout =>
    obtain rfl : waitPass op timeout s = t := by injection h
    exact .pass hp

theorem idleStep_shape (hp : s.phase = .idle) (h : idleStep s = .next t) : StepShape s t := by
  unfold idleStep at h
  split at h
  case h_1 hh => injection h with h; exact h ▸ .rest hp hh
  case h_2 hh => exact .request hp hh h
  case h_3 hh => injection h with h; exact h ▸ .setPB hp hh
  case h_4 hh =>
    split at h
    · rename_i hr
      injection h with h
      exact h ▸ .readResult hp hh hr
    · cases h
  case h_5 hh => injection h with h; exact h ▸ .hardReset hh
  case h_6 hh => injection h with h; exact h ▸ .chipPowerCycle hh
  case h_7 hh =>
    split at h
    · rename_i hd
      exact .frame hp hh hd h
    · cases h

theorem step_shape (h : step s = .next t) : StepShape s t := by
  unfold step advance at h
  split at h
  case h_1 hp => exact idleStep_shape hp h
  case h_2 hp =>
    split at h
    case h_1 hh => injection h with h; exact h ▸ .hardReset hh
    case h_2 hh => injection h with h; exact h ▸ .chipPowerCycle hh
    all_goals exact runStep_shape hp h

end Sys2Proof.Machine
end

/-! ## Registers that the bus operations do not write -/

section
namespace Sys2Proof.Machine

/-- A part of the state that no sample, frame, reading or delay writes. -/
structure BusBlind {α : Type} (f : State → α) : Prop where
  sample  : ∀ s, f (afterSample s) = f s
  command : ∀ op tx nrx s, f (afterFrame op tx nrx s) = f s
  reading : ∀ s, f (afterReading s) = f s
  delay   : ∀ n s, f (delayUs n s) = f s

theorem welTrack_blind : BusBlind State.welTrack :=
  ⟨fun _ => rfl, fun _ _ _ _ => rfl, fun _ => rfl, fun _ _ => rfl⟩

/-- Where the block is in an operation, and whether it shows a response. -/
def progress (s : State) : Phase × Bool := (s.phase, s.rspValid)

theorem progress_pb (s : State) (b : PageBuffer) : progress { s with pb := b } = progress s := rfl

theorem progress_blind : BusBlind progress :=
  ⟨fun _ => rfl, fun _ _ _ _ => rfl, fun _ => rfl, fun _ _ => rfl⟩

/-- The marks of written result registers (R41, U3). -/
def resultMarks (s : State) : Bool × Bool := (s.rspBusyKnown, s.idKnown)

theorem resultMarks_blind : BusBlind resultMarks :=
  ⟨fun _ => rfl, fun _ _ _ _ => rfl, fun _ => rfl, fun _ _ => rfl⟩

/-- What the host presents and has presented, its buffer, and the start of a wait. -/
def hostSide (s : State) :
    List HostAction × BitVec 4 × Addr × Bool × Millis × CsId × PageBuffer × Millis :=
  (s.hostIn, s.reqOp, s.reqAddr, s.reqHold, s.reqTimeout, s.reqCsId, s.pb, s.t0)

theorem hostSide_blind : BusBlind hostSide :=
  ⟨fun _ => rfl, fun _ _ _ _ => rfl, fun _ => rfl, fun _ _ => rfl⟩

section
variable {α : Type} {f : State → α} (hf : BusBlind f)
include hf

theorem BusBlind.beforeFrame (op : WireOp) (s : State) : f (beforeFrame op s) = f s := by
  unfold Machine.beforeFrame
  split
  · exact hf.sample s
  · rfl

/-- A command keeps what neither the bus operations nor its own write changes. -/
theorem BusBlind.issueThen {op : WireOp} {tx : List Byte} {nrx : Nat}
    {write : List Byte → State → State} {s : State} (hw : ∀ rx u, f (write rx u) = f u) :
    f (issueThen op tx nrx write s).2 = f s := by
  rw [issueThen_eq]
  split
  · simp only [hw, hf.command, hf.beforeFrame]
  · exact hf.sample s

/-- A pass of the wait keeps what neither the bus operations, the end of an operation, nor a write of
`wstate` or the phase changes. -/
theorem BusBlind.waitConfirm (hend : ∀ st u, f (finish st u) = f u)
    (hw : ∀ u w, f { u with wstate := w } = f u) (s : State) : f (waitConfirm s) = f s := by
  simp only [Machine.waitConfirm, statusBusy_eq]
  split
  · simp only [hend, hw, hf.sample]
  · simp only [hend, hw, hf.sample]

theorem BusBlind.waitPass (hend : ∀ st u, f (finish st u) = f u)
    (hw : ∀ u w, f { u with wstate := w } = f u) (hp : ∀ u ph, f { u with phase := ph } = f u)
    (op : BitVec 4) (timeout : Millis) (s : State) : f (waitPass op timeout s) = f s := by
  simp only [Machine.waitPass, statusBusy_eq, nowMs_eq]
  split
  · split
    · simp only [hf.waitConfirm hend hw, hf.reading, hf.sample]
    · simp only [hp, hf.delay, hf.reading, hf.sample]
  · simp only [hend, hf.sample]

end

end Sys2Proof.Machine
end

/-! ## How an instruction leaves the phase and the response -/

section
namespace Sys2Proof.Machine

variable {i : Instr} {s t : State}

/-- A wait pass goes on waiting, with no response written, or ends the operation with OK or TIMEOUT
(R221). -/
theorem waitPass_outcome (op : BitVec 4) (timeout : Millis) (s : State) :
    ((waitPass op timeout s).phase = .run op (.poll timeout) ∧
        (waitPass op timeout s).rspValid = s.rspValid) ∨
      ((waitPass op timeout s).phase = .idle ∧
        ((waitPass op timeout s).rspStatus = .ok ∨ (waitPass op timeout s).rspStatus = .timeout)) := by
  simp only [waitPass, waitConfirm, statusBusy_eq, nowMs_eq]
  split
  · split
    · split
      · exact .inr ⟨rfl, .inr rfl⟩
      · exact .inr ⟨rfl, .inl rfl⟩
    · exact .inl ⟨rfl, rfl⟩
  · exact .inr ⟨rfl, .inl rfl⟩

theorem waitPass_progress (op : BitVec 4) (timeout : Millis) (s : State) :
    (waitPass op timeout s).phase = .idle ∨ (waitPass op timeout s).rspValid = s.rspValid :=
  (waitPass_outcome op timeout s).elim (fun h => .inr h.2) fun h => .inl h.1

theorem mutate_progress (op : WireOp) (tx : List Byte) (s : State) :
    progress (mutate op tx s).2 = progress s := by
  have hm : ∀ u, progress (mutateBody op tx u).2 = progress u :=
    fun _ => progress_blind.issueThen fun _ _ => rfl
  have he : progress (autoEnable s).2 = progress s := by
    unfold autoEnable
    split
    · rfl
    · exact progress_blind.issueThen fun _ _ => rfl
  unfold mutate andThen
  split <;> split
  · rw [hm, he]
  · exact he
  · exact hm s
  · rfl

theorem erase_progress (op : WireOp) (tx : List Byte) (code : BitVec 4) (hold : Bool)
    (timeout : Millis) (s : State) :
    (erase op tx code hold timeout s).phase = .idle ∨
      (erase op tx code hold timeout s).rspValid = s.rspValid := by
  have hv : (mutate op tx s).2.rspValid = s.rspValid := congrArg Prod.snd (mutate_progress op tx s)
  unfold erase
  simp only
  split
  · split
    · exact hv ▸ waitPass_progress code timeout _
    · exact .inl rfl
  · exact .inl rfl

/-- The wire commands write no response and do not change the phase (assumption 10). -/
theorem exec_wire_progress (hi : requestCode i = none) (h : exec i s = .next t) :
    progress t = progress s := by
  cases i <;> cases hi <;> injection h with h <;> subst h
  case rdsr1 => rw [statusBusy_eq]; exact progress_blind.sample s
  case read => exact progress_blind.issueThen fun _ u => progress_pb u _
  case jedec use =>
    cases use
    · change progress (identBody s).2 = progress s
      exact progress_blind.issueThen fun _ _ => rfl
    · change progress (probeBody .jedec s).2 = progress s
      exact progress_blind.issueThen fun _ _ => rfl
  all_goals exact progress_blind.issueThen fun _ _ => rfl

/-- An instruction ends its operation or writes no response. -/
theorem exec_progress (h : exec i s = .next t) : t.phase = .idle ∨ t.rspValid = s.rspValid := by
  by_cases hi : requestCode i = none
  · exact .inr (congrArg Prod.snd (exec_wire_progress hi h))
  · cases i <;> injection h with h <;> subst h
    case eraseSector => exact erase_progress ..
    case eraseBlock32 => exact erase_progress ..
    case eraseBlock64 => exact erase_progress ..
    case eraseChip => exact erase_progress ..
    case waitUntilFree timeout => exact waitPass_progress 0xB timeout _
    case init | enableWriting | disableWriting | writePage | readPage | getJedec | busy | reset
      | powerDown | releasePowerDown | reservedF => exact .inl rfl
    all_goals exact absurd rfl hi

end Sys2Proof.Machine
end

/-! ## The invariant of the machine -/

section
namespace Sys2Proof.Machine

variable {p : Params}

/-- REFCHIP between two transactions: none open, its array in canonical form. -/
structure RefChip.Settled (c : RefChip) : Prop where
  no_frame  : c.frame = []
  canonical : c.mem.wf = true

theorem refProgram_settled {c : RefChip} (h : c.Settled) (a : Addr) (data : List Byte) :
    (refProgram c a data).Settled := by
  unfold refProgram
  split
  · exact ⟨h.no_frame, Memory.wf_program _ _ h.canonical⟩
  · exact h

theorem refErase_settled {c : RefChip} (h : c.Settled) (a : Addr) (unit : Nat) (busy : BusyLeft) :
    (refErase c a unit busy).Settled := by
  unfold refErase
  split
  · exact ⟨h.no_frame, Memory.wf_eraseRange _ _ h.canonical⟩
  · exact h

theorem refEraseChip_settled {c : RefChip} (h : c.Settled) : (refEraseChip c).Settled := by
  unfold refEraseChip
  split
  · exact ⟨h.no_frame, rfl⟩
  · exact h

theorem refRst_settled {c : RefChip} (h : c.Settled) : (refRst c).Settled := by
  unfold refRst
  split
  · exact ⟨h.no_frame, h.canonical⟩
  · exact h

/-- What a taken frame does keeps the array's canonical form (R73 to R82). -/
theorem refAct_settled {c c' : RefChip} {op : WireOp} {args : List Byte} (h : c.Settled)
    (ha : refAct p c op args = some c') : c'.Settled := by
  have keep {d : RefChip} (hf : d.frame = c.frame) (hm : d.mem = c.mem) : d.Settled :=
    ⟨hf ▸ h.no_frame, hm ▸ h.canonical⟩
  cases op <;> simp only [refAct, Option.some.injEq, Option.ite_none_right_eq_some] at ha
  case pp => exact ha.2 ▸ refProgram_settled h ..
  case se => exact ha.2 ▸ refErase_settled h ..
  case be32 => exact ha.2 ▸ refErase_settled h ..
  case be64 => exact ha.2 ▸ refErase_settled h ..
  case ce => exact ha ▸ refEraseChip_settled h
  case rst => exact ha ▸ refRst_settled h
  case read => exact ha.2 ▸ keep rfl rfl
  all_goals exact ha ▸ keep rfl rfl

theorem Env.frameEnd_settled (hp : p.wf = true) {e : Env} (h : e.chip.Settled) {op : WireOp}
    (ho : op ≠ .rdsr1) (tx : List Byte) (nrx : Nat) :
    (Env.frameEnd p (p.opc op) tx nrx e).chip.Settled := by
  have hs : RefChip.Settled { e.chip with frame := [] } := ⟨rfl, h.canonical⟩
  cases he : e.bus with
  | anyDevice => rwa [(Env.frameEnd_any he _ _ _).2]
  | refChip =>
    have hc := congrArg Prod.snd (Env.frameEnd_ref hp he ho tx nrx)
    simp only at hc
    rw [hc]
    split
    · split
      · split
        · rename_i ha
          exact refAct_settled hs ha
        · exact hs
      · exact hs
    · exact hs

theorem Env.afterSample_settled (hp : p.wf = true) {e : Env} (h : e.chip.Settled) :
    (e.afterSample p).chip.Settled := by
  refine ⟨?_, (Env.afterSample_mem hp e).symm ▸ h.canonical⟩
  cases he : e.bus with
  | anyDevice => rw [Env.afterSample, (Env.frameEnd_any he _ _ _).2, h.no_frame]
  | refChip =>
    rw [(Env.afterSample_ref hp he).2]
    split <;> rfl

/-- A paired trace stays paired when whole transactions or timer events follow. -/
theorem Paired.append {tr evs : List Event} (h : Paired p tr)
    (he : busRun p .closed evs = some .closed) : Paired p (tr ++ evs) := by
  rw [Paired, busRun_append, h, Option.bind_some, he]

/-- The part of the invariant that is about the bus and what is attached to it: all of it but the
response register. -/
structure BusInv (s : State) : Prop where
  params_wf  : s.params.wf = true
  deselected : s.csN = true
  constants  : s.busCfg = busConstants s.params
  paired     : Paired s.params s.trace
  settled    : s.env.chip.Settled
  csId_lt    : s.csId < 2 ^ s.params.csIdW
  reqCsId_lt : s.reqCsId < 2 ^ s.params.csIdW

theorem inv_iff (s : State) :
    Inv s ↔ BusInv s ∧ (s.phase ≠ .idle → s.rspValid = false) where
  mp h := ⟨⟨h.params_wf, h.deselected, h.constants, h.paired, ⟨h.no_frame, h.canonical⟩,
    h.cs_width.1, h.cs_width.2⟩, h.no_response⟩
  mpr h := ⟨h.1.params_wf, h.1.deselected, h.2, h.1.constants, h.1.paired, h.1.settled.no_frame,
    h.1.settled.canonical, h.1.csId_lt, h.1.reqCsId_lt⟩

namespace BusInv

variable {i : Instr} {s t : State}

theorem quiet (h : BusInv s) (hq : Quiet s t) : BusInv t where
  params_wf := hq.params ▸ h.params_wf
  deselected := hq.csN.elim (fun he => he ▸ h.deselected) id
  constants := hq.params ▸ hq.busCfg.elim (fun he => he ▸ h.constants) id
  paired := hq.params ▸ hq.trace ▸ h.paired
  settled := hq.env ▸ h.settled
  csId_lt := hq.params ▸ hq.csId.elim (fun he => he ▸ h.csId_lt) id
  reqCsId_lt := hq.params ▸ hq.reqCsId ▸ h.reqCsId_lt

theorem sample (h : BusInv s) : BusInv (afterSample s) :=
  { h with
    deselected := rfl
    paired := h.paired.append (busRun_wireFrame s .rdsr1 [] _ _ rfl)
    settled := Env.afterSample_settled h.params_wf h.settled }

theorem command (h : BusInv s) {op : WireOp} (ho : op ≠ .rdsr1) (tx : List Byte) (nrx : Nat) :
    BusInv (afterFrame op tx nrx s) :=
  { h with
    deselected := rfl
    paired := h.paired.append (busRun_wireFrame s op tx _ _ (Env.length_frameDisc ..))
    settled := Env.frameEnd_settled h.params_wf h.settled ho tx nrx }

theorem reading (h : BusInv s) : BusInv (afterReading s) :=
  { h with paired := h.paired.append rfl }

theorem delay (h : BusInv s) (n : Nat) : BusInv (delayUs n s) :=
  { h with paired := h.paired.append rfl }

/-- Whatever an instruction does on the bus keeps the invariant. -/
theorem path (h : BusInv s) (hp : Path i s t) : BusInv t := by
  induction hp with
  | refl => exact h
  | quiet _ hq ih => exact ih.quiet hq
  | sample _ ih => exact ih.sample
  | command nrx _ _ hs ih =>
    exact ih.sample.command (fun he => absurd (he ▸ hs.guarded) (by decide)) _ nrx
  | pair _ _ ih => exact (ih.sample.command (by decide) [] 0).command (by decide) [] 0
  | release _ ih => exact ih.command (by decide) [] 0
  | rawRst _ _ ih => exact ih.command (by decide) [] 0
  | reading _ ih => exact ih.reading
  | delay n _ ih => exact ih.delay n

theorem exec (h : BusInv s) (he : Machine.exec i s = .next t) : BusInv t := h.path (exec_path he)

theorem waitPass (h : BusInv s) (op : BitVec 4) (timeout : Millis) :
    BusInv (Machine.waitPass op timeout s) := h.path (i := .busy) (Path.waitPass op timeout .refl)

/-- What the host writes of its own is not the bus's. -/
theorem hostWrites (h : BusInv s) (b : PageBuffer) (l : List HostAction) :
    BusInv { s with pb := b, hostIn := l } := { h with }

theorem hardReset (h : BusInv s) : BusInv (Machine.hardReset s) :=
  { h with
    deselected := rfl
    constants := rfl
    csId_lt := Nat.two_pow_pos _
    reqCsId_lt := Nat.two_pow_pos _ }

theorem chipPowerCycle (h : BusInv s) : BusInv (Machine.chipPowerCycle s) :=
  { h with settled := ⟨rfl, h.settled.canonical⟩ }

theorem accept (h : BusInv s) (w : RequestWord) : BusInv (Machine.accept w s) :=
  { h with reqCsId_lt := reqCsIdField_lt .. }

theorem step (h : BusInv s) (hs : StepShape s t) : BusInv t := by
  cases hs with
  | rest => exact h
  | setPB => exact h.hostWrites ..
  | readResult => exact h.hostWrites ..
  | hardReset => exact (h.hostWrites s.pb _).hardReset
  | chipPowerCycle => exact (h.hostWrites s.pb _).chipPowerCycle
  | request _ _ he => exact ((h.hostWrites s.pb _).accept _).exec he
  | frame _ _ _ he => exact (h.hostWrites s.pb _).exec he
  | latched _ he => exact h.exec he
  | pass => exact h.waitPass ..

end BusInv

/-! ## No response stands while an operation runs -/

variable {s t : State}

theorem requestCode_of_decodeRx {op : WireOp} {i j : Instr} {n : Nat} {l : List Byte}
    (hj : requestCode j = none) (h : decodeRx op j n l = .ok i) : requestCode i = none := by
  unfold decodeRx at h
  split at h <;> cases h
  exact hj

theorem requestCode_of_decodeBare {op : WireOp} {i j : Instr} {l : List Byte}
    (hj : requestCode j = none) (h : decodeBare op j l = .ok i) : requestCode i = none := by
  unfold decodeBare at h
  split at h <;> cases h
  exact hj

theorem requestCode_of_decodeAddressed {op : WireOp} {i : Instr} {j : Addr → Instr} {l : List Byte}
    (hj : ∀ a, requestCode (j a) = none) (h : decodeAddressed op j l = .ok i) :
    requestCode i = none := by
  unfold decodeAddressed at h
  split at h <;> cases h
  exact hj _

/-- A frame that is read as a command is one of the wire commands. -/
theorem requestCode_of_decodeBody {op : WireOp} {rest : List Byte} {i : Instr}
    (h : decodeBody op rest = .ok i) : requestCode i = none := by
  cases op
  case rdsr1 => exact requestCode_of_decodeRx rfl h
  case mfrDevId => exact requestCode_of_decodeRx rfl h
  case se => exact requestCode_of_decodeAddressed (fun _ => rfl) h
  case be32 => exact requestCode_of_decodeAddressed (fun _ => rfl) h
  case be64 => exact requestCode_of_decodeAddressed (fun _ => rfl) h
  case pp =>
    simp only [decodeBody] at h
    split at h
    · split at h <;> cases h
      rfl
    · cases h
  case read =>
    simp only [decodeBody] at h
    split at h
    · exact requestCode_of_decodeRx rfl h
    · cases h
  case jedec =>
    simp only [decodeBody] at h
    split at h
    · exact requestCode_of_decodeRx rfl h
    · exact requestCode_of_decodeRx rfl h
  all_goals exact requestCode_of_decodeBare rfl h

theorem requestCode_of_decodeFrame {bytes : List Byte} {i : Instr}
    (h : decodeFrame p bytes = .ok i) : requestCode i = none := by
  unfold decodeFrame at h
  split at h
  · cases h
  · split at h
    · cases h
    · exact requestCode_of_decodeBody h

/-- R33: an instruction that starts with no response standing ends its operation or writes none. -/
theorem exec_no_response {i : Instr} (hv : s.rspValid = false) (he : exec i s = .next t) :
    t.phase ≠ .idle → t.rspValid = false :=
  fun hne => (exec_progress he).elim (fun hi => absurd hi hne) fun hr => hr.trans hv

theorem step_no_response (h : s.phase ≠ .idle → s.rspValid = false) (hs : StepShape s t) :
    t.phase ≠ .idle → t.rspValid = false := by
  have running {op k} (hp : s.phase = .run op k) : s.rspValid = false := h (by simp [hp])
  cases hs with
  | rest => exact h
  | setPB => exact h
  | readResult => exact h
  | hardReset => exact fun hne => absurd rfl hne
  | chipPowerCycle => exact h
  | request _ _ he => exact exec_no_response rfl he
  | frame hp _ hd he =>
    have hi : t.phase = s.phase :=
      congrArg Prod.fst (exec_wire_progress (requestCode_of_decodeFrame hd) he)
    exact fun hne => absurd (hi.trans hp) hne
  | latched hp he => exact exec_no_response (running hp) he
  | pass hp =>
    exact fun hne => (waitPass_progress _ _ s).elim (fun hi => absurd hi hne) fun hr =>
      hr.trans (running hp)

theorem Inv.step (h : Inv s) (hs : Machine.step s = .next t) : Inv t := by
  obtain ⟨hb, hr⟩ := (inv_iff s).1 h
  exact (inv_iff t).2 ⟨hb.step (step_shape hs), step_no_response hr (step_shape hs)⟩

/-- Settles O43: whatever an instruction does on the bus is a path, and each piece of a path keeps the
bus's part of the invariant. -/
theorem stepKeepsInvariant : Obligations.StepKeepsInvariant := fun _ _ h hs => h.step hs

end Sys2Proof.Machine
end

/-! ## Statements about reset, acceptance and the host's side -/

section
namespace Sys2Proof.Machine

/-- R6: the chip erase is allowed more time than the default, whatever the two OPEN numbers are. -/
theorem tDefaultMs_lt_tChipEraseMs : Config.tDefaultMs < Config.tChipEraseMs := by
  have hd : Config.tDefaultMs.toNat < 2 ^ 32 - 1 := by
    simp only [Config.tDefaultMs, BitVec.toNat_ofNat]
    omega
  have hm := Nat.mod_lt Config.openChipEraseMs
    (show 0 < 2 ^ 32 - 1 - Config.tDefaultMs.toNat by omega)
  rw [BitVec.lt_def, Config.tChipEraseMs, BitVec.toNat_ofNat, Nat.mod_eq_of_lt (by omega)]
  omega

/-- The default configuration is a legal one. -/
theorem default_wf : Params.default.wf = true := by
  have hn : (WireOp.all.map Params.default.opc).Nodup := by decide
  have hc : (List.range 25).any (fun k => Params.default.capacityBytes == 2 ^ k) = true := by decide
  simp only [Params.wf, hn, hc, decide_true, Bool.true_and, Bool.and_true, Bool.and_eq_true,
    decide_eq_true_eq]
  exact ⟨⟨tDefaultMs_lt_tChipEraseMs, by decide⟩, by decide⟩

/-- Settles O42: the only fact beyond computation is that the default configuration is legal. -/
theorem invariantsHoldAtReset : Obligations.InvariantsHoldAtReset :=
  ⟨{ params_wf := default_wf
     deselected := rfl
     no_response := fun hne => absurd rfl hne
     constants := rfl
     paired := rfl
     no_frame := rfl
     canonical := rfl
     cs_width := ⟨Nat.two_pow_pos _, Nat.two_pow_pos _⟩ },
   { params_wf := default_wf, no_raw := rfl, guarded := rfl }⟩

/-- Settles O9: a hardware reset at the head of the host's list acts in every phase. -/
theorem hardwareResetValues : Obligations.HardwareResetValues := by
  intro s rest hh
  refine ⟨_, step_hardReset hh, rfl, rfl, rfl, rfl, rfl, rfl, rfl, rfl, rfl, rfl, rfl, rfl, rfl, ?_⟩
  intro r
  cases r <;> rfl

/-- Settles O11: acceptance is the record the statement writes out. -/
theorem stepRunsDecodedRequest : Obligations.StepRunsDecodedRequest := by
  intro s w rest hp hh
  refine ⟨rfl, ?_, ?_, ?_⟩
  · simp [reqReady, hp]
  · simp [reqValid, hh]
  · simp only [step_idle hp, idleStep, hh, accept]

/-- Settles O14, one host action at a time. -/
theorem idleBlockWaitsForHost : Obligations.IdleBlockWaitsForHost := by
  intro s hp
  refine ⟨fun hh => ?_, fun buf rest hh => ?_, fun rest hh => ?_⟩
  · simp only [step_idle hp, idleStep, hh]
  · simp only [step_idle hp, idleStep, hh]
  · simp only [step_idle hp, idleStep, hh, chipPowerCycle, RefChip.powerCycle]

theorem decodeTableWord_eq_some {nbits w : Nat} {i : Instr} :
    decodeTableWord nbits w = some i ↔
      decode Params.default (tableCode Params.default nbits w) = .ok i := by
  unfold decodeTableWord
  split <;> simp [*]

/-- Settles O15: a word of 64 bits is taken as a request, a shorter one as a raw frame. -/
theorem fetchedWordRunsNext : Obligations.FetchedWordRunsNext := by
  intro nbits w i h
  rw [decodeTableWord_eq_some] at h
  rw [step_idle rfl]
  by_cases hn : nbits = 64
  · have hc : tableCode Params.default nbits w = .request (BitVec.ofNat 64 w) := if_pos hn
    have ha : wordAction Params.default nbits w = .request (BitVec.ofNat 64 w) := by
      simp only [wordAction, hc]
    rw [hc, decode, Except.ok.injEq] at h
    rw [if_pos hn, ← h]
    simp only [idleStep, State.withFetchWord, State.reset, State.resetWith, ha]
  · have hc : tableCode Params.default nbits w = .frame (tableFrame Params.default nbits w) :=
      if_neg hn
    have ha : wordAction Params.default nbits w = .frame (tableFrame Params.default nbits w) := by
      simp only [wordAction, hc]
    rw [hc, decode] at h
    rw [if_neg hn]
    simp only [idleStep, State.withFetchWord, State.reset, State.resetWith, ha, h]

/-- Settles O4: once the op code is known, the decoded operation names only the fields its row uses. -/
theorem unusedRequestFieldsIgnored : Obligations.UnusedRequestFieldsIgnored := by
  intro p w w' hop
  simp only [decodeRequest, ← hop]
  refine ⟨fun hm => ?_, fun hm hc => ?_, fun hm ha => ?_, fun hm ha hh => ?_, fun hm hh => ?_,
    fun hm ht => ?_⟩
  · simp only [List.mem_cons, List.not_mem_nil, or_false] at hm
    rcases hm with hm | hm | hm | hm | hm | hm | hm | hm <;> rw [hm] <;> rfl
  · rw [hm, hc]; rfl
  · simp only [List.mem_cons, List.not_mem_nil, or_false] at hm
    rcases hm with hm | hm <;> rw [hm, ha] <;> rfl
  · simp only [List.mem_cons, List.not_mem_nil, or_false] at hm
    rcases hm with hm | hm | hm <;> rw [hm, ha, hh] <;> rfl
  · rw [hm, hh]; rfl
  · rw [hm, ht]; rfl

/-- Settles O13: the step is one pass of the loop, which writes nothing of the host's side. -/
theorem requestPendsWhileWaiting : Obligations.RequestPendsWhileWaiting := by
  intro s op timeout hp hh
  have hk := hostSide_blind.waitPass (fun _ _ => rfl) (fun _ _ => rfl) (fun _ _ => rfl) op timeout s
  simp only [hostSide, Prod.mk.injEq] at hk
  obtain ⟨hhost, hop, haddr, hhold, htime, hcs, hpb, ht0⟩ := hk
  refine ⟨?_, _, step_run hp hh, hhost, hop, haddr, hhold, htime, hcs, hpb, ht0⟩
  simp [reqReady, hp]

end Sys2Proof.Machine
end

/-! ## The result registers and the write-enable mirror -/

section
namespace Sys2Proof.Machine

variable {s t : State}

/-- Whether a result register has been written since hardware reset (assumption 13). -/
def resultKnown (r : ResultReg) (s : State) : Bool :=
  if r = .rspBusy then s.rspBusyKnown else s.idKnown

theorem readResult_of_unknown {r : ResultReg} (h : resultKnown r s = false) :
    readResult r s = .error (.unwrittenResult r) := by
  cases r <;> exact if_neg (by simpa [resultKnown] using h)

theorem readResult_of_known {r : ResultReg} (h : resultKnown r s = true) :
    ∃ b, readResult r s = .ok b := by
  cases r <;> exact ⟨_, if_pos h⟩

/-- An operation that is one command returns OK exactly when its frame is sent (R127). -/
theorem issueThen_status (op : WireOp) (tx : List Byte) (nrx : Nat)
    (write : List Byte → State → State) (s : State) :
    (issueThen op tx nrx write s).1 = if issues op s then .ok else .busy := by
  rw [issueThen_eq]
  split <;> rfl

/-- GET_JEDEC marks the id registers exactly when it returns OK (R201). -/
theorem identBody_resultMarks (s : State) :
    resultMarks (identBody s).2 = (s.rspBusyKnown, s.idKnown || (identBody s).1 == .ok) := by
  rw [identBody, issueThen_eq]
  split
  · simp [resultMarks, afterFrame, beforeFrame, wireGuarded, afterSample]
  · simp [resultMarks, afterSample]

/-- Settles O10: the marks are written by the bodies of BUSY and GET_JEDEC alone. -/
theorem unwrittenResultReadFaults : Obligations.UnwrittenResultReadFaults := by
  refine ⟨fun s r rest hp hh => ⟨fun hk => ?_, fun hk => ?_⟩, fun s t h => ?_, fun s t h => ?_⟩
  · simp only [step_idle hp, idleStep, hh, readResult_of_unknown hk]
  · obtain ⟨b, hb⟩ := readResult_of_known hk
    simp only [step_idle hp, idleStep, hh, hb]
  · obtain rfl := Host.Outcome.next.inj h
    simp only [statusBusy_eq]
    exact ⟨rfl, rfl⟩
  · obtain rfl := Host.Outcome.next.inj h
    obtain ⟨hb, hi⟩ := Prod.mk.inj (identBody_resultMarks s)
    exact ⟨hb, fun hok => hi.trans (by simp [show (identBody s).1 = .ok from hok]),
      fun hne => hi.trans (by simp [show (identBody s).1 ≠ .ok from hne])⟩

/-! ### The mirror after one command -/

theorem issues_of_guarded {op : WireOp} (hg : wireGuarded op = true) (s : State) :
    issues op s = !(statusBusy s).1 := by
  simp only [issues, hg, statusBusy_eq, Bool.true_and]

section
variable {op : WireOp} {tx : List Byte} {nrx : Nat} {write : List Byte → State → State}

/-- A command whose write clears the mirror does so exactly when its frame is sent. -/
theorem issueThen_clears_mirror (hw : ∀ rx u, (write rx u).welTrack = false) (s : State) :
    (issueThen op tx nrx write s).2.welTrack = (s.welTrack && !issues op s) := by
  rw [issueThen_eq]
  split
  · simp [*]
  · simp [*, welTrack_blind.sample s]

/-- A command whose write sets the mirror does so exactly when its frame is sent. -/
theorem issueThen_sets_mirror (hw : ∀ rx u, (write rx u).welTrack = true) (s : State) :
    (issueThen op tx nrx write s).2.welTrack = (s.welTrack || issues op s) := by
  rw [issueThen_eq]
  split
  · simp [*]
  · simp [*, welTrack_blind.sample s]

end

theorem wrenBody_mirror (s : State) :
    (wrenBody s).2.welTrack = (s.welTrack || issues .wren s) := issueThen_sets_mirror (fun _ _ => rfl) s

theorem wrdiBody_mirror (s : State) :
    (wrdiBody s).2.welTrack = (s.welTrack && !issues .wrdi s) :=
  issueThen_clears_mirror (fun _ _ => rfl) s

theorem mutateBody_mirror (op : WireOp) (tx : List Byte) (s : State) :
    (mutateBody op tx s).2.welTrack = (s.welTrack && !issues op s) :=
  issueThen_clears_mirror (fun _ _ => rfl) s

theorem rstBody_mirror (s : State) : (rstBody s).2.welTrack = false := by
  rw [rstBody, issueThen_unguarded _ _ _ rfl]

/-! ### The mirror after an operation of several commands -/

theorem resetBody_busy (hb : SampleBusy s) : resetBody s = (.busy, afterSample s) := by
  rw [resetBody, rstenBody, issueThen_busy _ _ _ rfl hb, andThen_busy, andThen_busy]

/-- RSTEN, RST at once, the settle delay: on a ready sample RESET sends the whole pair (R202). -/
theorem resetBody_ready (hr : SampleReady s) :
    resetBody s = (.ok, delayUs s.params.tRstSettleUs
      { afterFrame .rst [] 0 (afterFrame .rsten [] 0 (afterSample s)) with welTrack := false }) := by
  rw [resetBody, rstenBody, issueThen_ready _ _ _ rfl hr, andThen_ok, rstBody,
    issueThen_unguarded _ _ _ rfl, andThen_ok, settle]

/-- RESET clears the mirror exactly when it returns OK (R202). -/
theorem resetBody_mirror (s : State) :
    (resetBody s).2.welTrack = (s.welTrack && (resetBody s).1 != .ok) := by
  by_cases hr : SampleReady s
  · rw [resetBody_ready hr]
    exact (Bool.and_false _).symm
  · rw [resetBody_busy (sampleBusy_of_not_ready hr)]
    exact (Bool.and_true _).symm

/-- INIT clears the mirror before it sends anything, and nothing in it sets the mirror (R200). -/
theorem initBody_mirror (c : CsId) (s : State) : (initBody c s).2.welTrack = false := by
  have hprobe : (probeBody s.params.idProbe.wireOp (initConfigure c s)).2.welTrack = false :=
    welTrack_blind.issueThen fun _ _ => rfl
  unfold initBody andThen
  split
  · unfold initAfterProbe
    split
    · exact hprobe
    · rw [resetBody_mirror, hprobe, Bool.false_and]
  · exact hprobe

/-- From a set mirror, the program or erase frame clears it, or a busy guard leaves it. -/
theorem mutateBody_mirror_of_set (op : WireOp) (tx : List Byte) (hw : s.welTrack = true) :
    (mutateBody op tx s).2.welTrack = ((mutateBody op tx s).1 == .busy) := by
  rw [mutateBody_mirror, hw, mutateBody, issueThen_status]
  cases issues op s <;> rfl

section
variable {op : WireOp} (hn : wireNeedsWriteEnable op = true)
include hn

theorem guarded_of_needsWriteEnable : wireGuarded op = true := by
  revert hn
  cases op <;> decide

/-- WRITE_PAGE and the erases under a busy first sample: turned away, at the auto-enable's guard or at
their own (R172). -/
theorem mutate_busy (tx : List Byte) (hb : SampleBusy s) :
    mutate op tx s = (.busy, afterSample s) := by
  rw [mutate, if_pos hn, autoEnable]
  split
  · exact issueThen_busy _ _ _ (guarded_of_needsWriteEnable hn) hb
  · rw [wrenBody, issueThen_busy _ _ _ rfl hb, andThen_busy]

/-- WRITE_PAGE and the erases under a ready first sample: the mirror is set at their own guard. -/
theorem mutate_mirror (tx : List Byte) (hr : SampleReady s) :
    (mutate op tx s).2.welTrack = ((mutate op tx s).1 == .busy) := by
  rw [mutate, if_pos hn, autoEnable]
  split
  case isTrue hw => exact mutateBody_mirror_of_set op tx hw
  case isFalse =>
    rw [wrenBody, issueThen_ready _ _ _ rfl hr, andThen_ok]
    exact mutateBody_mirror_of_set op tx rfl

end

theorem waitBegin_mirror (op : BitVec 4) (timeout : Millis) (s : State) :
    (waitBegin op timeout s).welTrack = s.welTrack :=
  welTrack_blind.waitPass (fun _ _ => rfl) (fun _ _ => rfl) (fun _ _ => rfl) op timeout _

/-- A wait does not end with BUSY (R221). -/
theorem waitBegin_no_busy (op : BitVec 4) (timeout : Millis) (s : State) :
    (decide ((waitBegin op timeout s).phase = .idle) &&
      (waitBegin op timeout s).rspStatus == .busy) = false := by
  unfold waitBegin
  rcases waitPass_outcome op timeout { (nowMs s).2 with t0 := (nowMs s).1 } with
    ⟨hp, -⟩ | ⟨-, hst | hst⟩
  · rw [hp]; rfl
  · rw [hst]; exact Bool.and_false _
  · rw [hst]; exact Bool.and_false _

/-- What R21 has WRITE_PAGE and the erases leave in the mirror. -/
def MutationMirror (s t : State) : Prop :=
  (SampleBusy s → t.welTrack = s.welTrack) ∧
    (SampleReady s → t.welTrack = (decide (t.phase = .idle) && t.rspStatus == .busy))

theorem finishWith_mutate_mirror {op : WireOp} (hn : wireNeedsWriteEnable op = true)
    (tx : List Byte) (s : State) : MutationMirror s (finishWith (mutate op tx s)) :=
  ⟨fun hb => by rw [mutate_busy hn tx hb]; rfl, fun hr => mutate_mirror hn tx hr⟩

theorem erase_mirror {op : WireOp} (hn : wireNeedsWriteEnable op = true) (tx : List Byte)
    (code : BitVec 4) (hold : Bool) (timeout : Millis) (s : State) :
    MutationMirror s (erase op tx code hold timeout s) := by
  have hf := finishWith_mutate_mirror hn tx s
  unfold erase
  simp only
  split
  case isFalse => exact hf
  case isTrue hok =>
    have hfree : ¬ SampleBusy s := fun hb => by rw [mutate_busy hn tx hb] at hok; cases hok
    split
    · refine ⟨fun hb => absurd hb hfree, fun hr => ?_⟩
      rw [waitBegin_no_busy, waitBegin_mirror, mutate_mirror hn tx hr, hok]
      rfl
    · exact hok ▸ hf

theorem andThen_settle_mirror (r : Result) (us : Nat) :
    (andThen r (settle us)).2.welTrack = r.2.welTrack := by
  unfold andThen
  split <;> rfl

/-- The operations and wire commands that never write the mirror (R21). -/
theorem exec_keeps_mirror {i : Instr} (h : exec i s = .next t)
    (hi : i ∈ [.getJedec, .busy, .powerDown, .releasePowerDown, .reservedF, .rdsr1, .pd, .rpd, .rsten,
        .mfrDevId, .jedec .ident, .jedec .probe] ∨ (∃ a, i = .readPage a ∨ i = .read a) ∨
        (∃ T, i = .waitUntilFree T)) : t.welTrack = s.welTrack := by
  have hsample : (statusBusy s).2.welTrack = s.welTrack := by
    rw [statusBusy_eq]
    exact welTrack_blind.sample s
  have hident : (identBody s).2.welTrack = s.welTrack := welTrack_blind.issueThen fun _ _ => rfl
  have hread (a) : (readBody a s).2.welTrack = s.welTrack := welTrack_blind.issueThen fun _ _ => rfl
  have hprobe (op) : (probeBody op s).2.welTrack = s.welTrack := welTrack_blind.issueThen fun _ _ => rfl
  have hpd : (pdBody s).2.welTrack = s.welTrack := welTrack_blind.issueThen fun _ _ => rfl
  have hrpd : (rpdBody s).2.welTrack = s.welTrack := welTrack_blind.issueThen fun _ _ => rfl
  have hrsten : (rstenBody s).2.welTrack = s.welTrack := welTrack_blind.issueThen fun _ _ => rfl
  simp only [List.mem_cons, List.not_mem_nil, or_false] at hi
  rcases hi with (rfl | rfl | rfl | rfl | rfl | rfl | rfl | rfl | rfl | rfl | rfl | rfl) |
    ⟨a, rfl | rfl⟩ | ⟨T, rfl⟩ <;> obtain rfl := Host.Outcome.next.inj h
  · exact hident
  · exact hsample
  · exact (andThen_settle_mirror ..).trans hpd
  · exact (andThen_settle_mirror ..).trans hrpd
  · rfl
  · exact hsample
  · exact hpd
  · exact hrpd
  · exact hrsten
  · exact hprobe _
  · exact hident
  · exact hprobe _
  · exact hread a
  · exact hread a
  · exact waitBegin_mirror 0xB T s

/-- Settles O47, one clause for each way of writing the mirror: a write made exactly when the frame is
sent, and the two guards of WRITE_PAGE and the erases. -/
theorem mirrorWriters : Obligations.MirrorWriters := by
  intro i s t h
  refine ⟨exec_keeps_mirror h, ?_, ?_, ?_, ?_, ?_, ?_, ?_⟩
  · rintro ⟨c, rfl⟩
    obtain rfl := Host.Outcome.next.inj h
    exact initBody_mirror c s
  · rintro rfl
    obtain rfl := Host.Outcome.next.inj h
    change (wrenBody s).2.welTrack = (s.welTrack || (wrenBody s).1 == .ok)
    rw [wrenBody_mirror, wrenBody, issueThen_status]
    cases issues .wren s <;> rfl
  · rintro (rfl | rfl) <;> obtain rfl := Host.Outcome.next.inj h
    · change (wrdiBody s).2.welTrack = (s.welTrack && (wrdiBody s).1 != .ok)
      rw [wrdiBody_mirror, wrdiBody, issueThen_status]
      cases issues .wrdi s <;> rfl
    · exact resetBody_mirror s
  · rintro ⟨a, hold, rfl | rfl | rfl | rfl | rfl⟩ <;> obtain rfl := Host.Outcome.next.inj h
    · exact finishWith_mutate_mirror (op := .pp) rfl _ s
    · exact erase_mirror (op := .se) rfl _ _ hold _ s
    · exact erase_mirror (op := .be32) rfl _ _ hold _ s
    · exact erase_mirror (op := .be64) rfl _ _ hold _ s
    · exact erase_mirror (op := .ce) rfl _ _ hold _ s
  · rintro rfl
    obtain rfl := Host.Outcome.next.inj h
    rw [wrenBody_mirror, issues_of_guarded rfl]
  · have cleared {op tx} (hg : wireGuarded op = true) :
        (mutateBody op tx s).2.welTrack = (s.welTrack && (statusBusy s).1) := by
      rw [mutateBody_mirror, issues_of_guarded hg, Bool.not_not]
    rintro (rfl | rfl | ⟨a, data, rfl | rfl | rfl | rfl⟩) <;> obtain rfl := Host.Outcome.next.inj h
    · rw [wrdiBody_mirror, issues_of_guarded rfl, Bool.not_not]
    all_goals exact cleared rfl
  · rintro rfl
    obtain rfl := Host.Outcome.next.inj h
    exact rstBody_mirror s

end Sys2Proof.Machine
end

/-! ## A step only appends -/

section
namespace Sys2Proof.Machine

/-- What `t` may be some steps after `s`: the same configuration, a count that has not gone back, a
trace that has only grown at its end (R6, R60, R256 (a)). -/
structure Appends (s t : State) : Prop where
  params  : t.params = s.params
  msCount : s.env.msCount ≤ t.env.msCount
  trace   : s.trace <+: t.trace

namespace Appends

variable {i : Instr} {s t u : State}

/-- A write of the block's or the host's own registers. -/
theorem of_eq (hp : t.params = s.params) (he : t.env = s.env) (ht : t.trace = s.trace) :
    Appends s t := ⟨hp, he ▸ le_rfl, ht ▸ List.prefix_rfl⟩

theorem trans (h : Appends s t) (h' : Appends t u) : Appends s u :=
  ⟨h'.params.trans h.params, h.msCount.trans h'.msCount, h.trace.trans h'.trace⟩

theorem sample (s : State) : Appends s (afterSample s) :=
  ⟨rfl, (Env.frameEnd_msCount ..).ge, List.prefix_append ..⟩

theorem command (op : WireOp) (tx : List Byte) (nrx : Nat) (s : State) :
    Appends s (afterFrame op tx nrx s) :=
  ⟨rfl, (Env.frameEnd_msCount ..).ge, List.prefix_append ..⟩

theorem reading (s : State) : Appends s (afterReading s) :=
  ⟨rfl, Nat.le_add_right .., List.prefix_append ..⟩

theorem delay (n : Nat) (s : State) : Appends s (delayUs n s) :=
  ⟨rfl, le_rfl, List.prefix_append ..⟩

theorem path (h : Path i s t) : Appends s t := by
  induction h with
  | refl => exact .of_eq rfl rfl rfl
  | quiet _ hq ih => exact ih.trans (.of_eq hq.params hq.env hq.trace)
  | sample _ ih => exact ih.trans (.sample _)
  | command nrx _ _ _ ih => exact (ih.trans (.sample _)).trans (.command ..)
  | pair _ _ ih => exact ((ih.trans (.sample _)).trans (.command ..)).trans (.command ..)
  | release _ ih => exact ih.trans (.command ..)
  | rawRst _ _ ih => exact ih.trans (.command ..)
  | reading _ ih => exact ih.trans (.reading _)
  | delay n _ ih => exact ih.trans (.delay ..)

/-- An instruction that runs once the block's or the host's own registers are written. -/
theorem exec (h : Machine.exec i u = .next t) (hp : u.params = s.params) (he : u.env = s.env)
    (ht : u.trace = s.trace) : Appends s t := (of_eq hp he ht).trans (path (exec_path h))

theorem step (h : StepShape s t) : Appends s t := by
  cases h with
  | rest | setPB | readResult | hardReset => exact .of_eq rfl rfl rfl
  | chipPowerCycle => exact ⟨rfl, le_rfl, List.prefix_rfl⟩
  | request _ _ he | frame _ _ _ he => exact .exec he rfl rfl rfl
  | latched _ he => exact .path (exec_path he)
  | pass => exact .path (i := .busy) (Path.waitPass _ _ .refl)

end Appends

/-- Settles O45: each piece of an instruction's path, and each action of the host, appends. -/
theorem stepOnlyAppends : Obligations.StepOnlyAppends := by
  intro s t h
  obtain ⟨hp, hm, evs, ht⟩ := Appends.step (step_shape h)
  exact ⟨hp, hm, evs, ht.symm⟩

end Sys2Proof.Machine
end

/-! ## What an instruction changes in the flash array -/

section
namespace Sys2Proof.Machine

variable {i : Instr} {s t : State} {p : Params}

/-- Against an unconstrained device no instruction touches the recorded chip (assumptions 2 and 15). -/
theorem Path.chip_of_anyDevice (h : Path i s t) (hb : s.env.bus = .anyDevice) :
    t.env.bus = .anyDevice ∧ t.env.chip = s.env.chip := by
  have frame {u : State} (hu : u.env.bus = .anyDevice ∧ u.env.chip = s.env.chip) (op : WireOp)
      (tx : List Byte) (nrx : Nat) : (afterFrame op tx nrx u).env.bus = .anyDevice ∧
        (afterFrame op tx nrx u).env.chip = s.env.chip := by
    obtain ⟨hb', hc⟩ := Env.frameEnd_any (p := u.params) hu.1 (u.params.opc op) tx nrx
    exact ⟨hb', hc.trans hu.2⟩
  induction h with
  | refl => exact ⟨hb, rfl⟩
  | quiet _ hq ih => exact hq.env ▸ ih
  | sample _ ih => exact frame ih .rdsr1 [] 1
  | command nrx _ _ _ ih => exact frame (frame ih .rdsr1 [] 1) ..
  | pair _ _ ih => exact frame (frame (frame ih .rdsr1 [] 1) ..) ..
  | release _ ih => exact frame ih ..
  | rawRst _ _ ih => exact frame ih ..
  | reading _ ih => exact ih
  | delay n _ ih => exact ih

/-- A command that needs no write-enable leaves the array (R106, R73, R74, R76, R79 to R81). -/
theorem refAct_mem {c c' : RefChip} {op : WireOp} {args : List Byte}
    (hn : wireNeedsWriteEnable op = false) (ha : refAct p c op args = some c') : c'.mem = c.mem := by
  cases op <;> simp only [refAct, Option.some.injEq, Option.ite_none_right_eq_some] at ha
  case pp | se | be32 | be64 | ce => cases hn
  case read => exact ha.2 ▸ rfl
  case rst =>
    subst ha
    unfold refRst
    split <;> rfl
  all_goals exact ha ▸ rfl

/-- The frames that need write-enable are an instruction's own program or erase frame. -/
theorem Sends.mutates_of_needsWriteEnable {op : WireOp} {tx : List Byte} (h : Sends p i op tx)
    (hn : wireNeedsWriteEnable op = true) : Mutates i op tx := by
  cases h with
  | mutates h => exact h
  | _ => cases hn

/-- Byte `x` of the array survives an accepted frame with these sent bytes. -/
def ActKeeps (p : Params) (x : Nat) (op : WireOp) (tx : List Byte) : Prop :=
  ∀ nrx c c', refLengthOk op (tx.length + nrx) = true →
    refAct p c op (tx ++ dummies nrx) = some c' → c'.mem.read x = c.mem.read x

theorem ActKeeps.of_readOnly {op : WireOp} (hn : wireNeedsWriteEnable op = false) (x : Nat)
    (tx : List Byte) : ActKeeps p x op tx :=
  fun _ _ _ _ ha => congrArg (·.read x) (refAct_mem hn ha)

/-- In configuration `p`, byte `x` of the array is `v`. -/
structure ByteIs (p : Params) (x : Nat) (v : Byte) (s : State) : Prop where
  params : s.params = p
  byte   : s.env.chip.mem.read x = v

namespace ByteIs

variable {x : Nat} {v : Byte}

theorem quiet (h : ByteIs p x v s) (hq : Quiet s t) : ByteIs p x v t :=
  ⟨hq.params.trans h.params, hq.env ▸ h.byte⟩

theorem sample (hp : p.wf = true) (h : ByteIs p x v s) : ByteIs p x v (afterSample s) :=
  ⟨h.params, (congrArg (·.read x) (Env.afterSample_mem (h.params ▸ hp) s.env)).trans h.byte⟩

theorem command (hp : p.wf = true) (h : ByteIs p x v s) {op : WireOp} (ho : op ≠ .rdsr1)
    {tx : List Byte} (hk : ActKeeps p x op tx) (nrx : Nat) :
    ByteIs p x v (afterFrame op tx nrx s) where
  params := h.params
  byte := (Env.frameEnd_mem (h.params ▸ hp) s.env tx nrx x ho (h.params ▸ hk nrx)).trans h.byte

/-- A command that needs no write-enable leaves the byte. -/
theorem readOnly (hp : p.wf = true) (h : ByteIs p x v s) {op : WireOp} (ho : op ≠ .rdsr1)
    (hn : wireNeedsWriteEnable op = false) (tx : List Byte) (nrx : Nat) :
    ByteIs p x v (afterFrame op tx nrx s) := h.command hp ho (.of_readOnly hn x tx) nrx

/-- An instruction leaves a byte of the array that its own program or erase frame leaves. -/
theorem path (hp : s.params.wf = true) (hk : ∀ op tx, Mutates i op tx → ActKeeps s.params x op tx)
    (h : Path i s t) : ByteIs s.params x (s.env.chip.mem.read x) t := by
  induction h with
  | refl => exact ⟨rfl, rfl⟩
  | quiet _ hq ih => exact ih.quiet hq
  | sample _ ih => exact ih.sample hp
  | @command _ op tx nrx _ _ hs ih =>
    refine (ih.sample hp).command hp (fun he => absurd (he ▸ hs.guarded) (by decide)) ?_ nrx
    cases hn : wireNeedsWriteEnable op
    case false => exact .of_readOnly hn x tx
    case true => exact hk op tx (hs.mutates_of_needsWriteEnable hn)
  | pair _ _ ih =>
    exact ((ih.sample hp).readOnly hp (by decide) rfl [] 0).readOnly hp (by decide) rfl [] 0
  | release _ ih => exact ih.readOnly hp (by decide) rfl [] 0
  | rawRst _ _ ih => exact ih.readOnly hp (by decide) rfl [] 0
  | reading _ ih => exact ⟨ih.params, ih.byte⟩
  | delay n _ ih => exact ⟨ih.params, ih.byte⟩

end ByteIs

/-- Settles O52: an instruction that is no program or erase sends no frame that needs write-enable. -/
theorem flashUntouchedByOthers : Obligations.FlashUntouchedByOthers := by
  intro i s t hp h
  refine ⟨fun hb => ((exec_path h).chip_of_anyDevice hb).2, ?_⟩
  have keeps (hi : ∀ op tx, ¬ Mutates i op tx) (x : Nat) :
      t.env.chip.mem.read x = s.env.chip.mem.read x :=
    (ByteIs.path hp (fun op tx hm => absurd hm (hi op tx)) (exec_path h)).byte
  cases i
  case writePage | eraseSector | eraseBlock32 | eraseBlock64 | eraseChip | pp | se | be32 |
      be64 | ce => trivial
  all_goals exact keeps fun _ _ hm => nomatch hm

/-! ### Programs and erases stay in their page or unit -/

/-- R93: the three address bytes together are the address. -/
theorem addrOfBytes_extract (a : Addr) :
    addrOfBytes (a.extractLsb' 16 8) (a.extractLsb' 8 8) (a.extractLsb' 0 8) = a := by
  have hhi : a.extractLsb' 16 8 ++ a.extractLsb' 8 8 = a.extractLsb' 8 (8 + 8) :=
    BitVec.extractLsb'_append_extractLsb'_eq_extractLsb' rfl
  have hall : a.extractLsb' 8 (8 + 8) ++ a.extractLsb' 0 8 = a.extractLsb' 0 (8 + 8 + 8) :=
    BitVec.extractLsb'_append_extractLsb'_eq_extractLsb' rfl
  exact (congrArg (· ++ a.extractLsb' 0 8) hhi).trans (hall.trans BitVec.extractLsb'_eq_self)

/-- The address an addressed frame carries is the one it was built from (R92). -/
@[simp] theorem refArgAddr_addrBytes (a : Addr) (rest : List Byte) :
    refArgAddr (addrBytes a ++ rest) = a := addrOfBytes_extract a

theorem drop_addrBytes (a : Addr) (rest : List Byte) : (addrBytes a ++ rest).drop 3 = rest := rfl

theorem refProgram_read_outside (c : RefChip) {a : Addr} {data : List Byte} {x : Nat}
    (hx : ¬ (a.toNat ≤ x ∧ x < a.toNat + data.length)) :
    (refProgram c a data).mem.read x = c.mem.read x := by
  unfold refProgram
  split
  · exact Memory.read_program_outside _ _ _ _ hx
  · rfl

theorem refErase_read_outside (c : RefChip) {a : Addr} {unit x : Nat} (busy : BusyLeft)
    (hx : ¬ (a.toNat - a.toNat % unit ≤ x ∧ x < a.toNat - a.toNat % unit + unit)) :
    (refErase c a unit busy).mem.read x = c.mem.read x := by
  unfold refErase
  split
  · exact (Memory.read_eraseRange ..).trans (if_neg hx)
  · rfl

/-- A program frame of the length REFCHIP accepts carries 256 bytes (R75, R84). -/
theorem ActKeeps.program {a : Addr} {x : Nat} (hx : ¬ (a.toNat ≤ x ∧ x < a.toNat + 256))
    (data : List Byte) : ActKeeps p x .pp (addrBytes a ++ data) := by
  intro nrx c c' hl ha
  have hlen : (data ++ dummies nrx).length = 256 := by
    simp [refLengthOk, wireArgLength] at hl ⊢
    omega
  simp only [refAct, List.append_assoc, refArgAddr_addrBytes, drop_addrBytes,
    Option.ite_none_right_eq_some, Option.some.injEq] at ha
  exact ha.2 ▸ refProgram_read_outside c (hlen.symm ▸ hx)

/-- `op` is an erase of the unit of `unit` bytes that contains its address, after which REFCHIP is busy
as its fixture's `busy` says (R77). -/
structure IsUnitErase (p : Params) (op : WireOp) (unit : Nat) (busy : Fixture → BusyLeft) : Prop where
  pos     : 0 < unit
  guarded : wireGuarded op = true
  length  : refLengthOk op 3 = true
  act     : ∀ c args, refAct p c op args =
    if (refArgAddr args).toNat < p.capacityBytes then
      some (refErase c (refArgAddr args) unit (busy c.fixture)) else none

theorem se_isUnitErase (p : Params) : IsUnitErase p .se 4096 (·.busySe) :=
  ⟨by decide, rfl, rfl, fun _ _ => rfl⟩

theorem be32_isUnitErase (p : Params) : IsUnitErase p .be32 32768 (·.busyBe32) :=
  ⟨by decide, rfl, rfl, fun _ _ => rfl⟩

theorem be64_isUnitErase (p : Params) : IsUnitErase p .be64 65536 (·.busyBe64) :=
  ⟨by decide, rfl, rfl, fun _ _ => rfl⟩

theorem IsUnitErase.actKeeps {a : Addr} {x unit : Nat} {op : WireOp} {busy : Fixture → BusyLeft}
    (hop : IsUnitErase p op unit busy)
    (hx : ¬ (a.toNat - a.toNat % unit ≤ x ∧ x < a.toNat - a.toNat % unit + unit)) :
    ActKeeps p x op (addrBytes a) := by
  intro nrx c c' _ ha
  rw [hop.act, refArgAddr_addrBytes, Option.ite_none_right_eq_some, Option.some.injEq] at ha
  exact ha.2 ▸ refErase_read_outside c (busy c.fixture) hx

/-- Settles O53: each of these instructions sends one program or erase frame, which keeps the bytes
outside its page or unit. -/
theorem flashStoresStayInUnit : Obligations.FlashStoresStayInUnit := by
  intro i s t x hp h a hold
  have keeps (hk : ∀ op tx, Mutates i op tx → ActKeeps s.params x op tx) :
      t.env.chip.mem.read x = s.env.chip.mem.read x := (ByteIs.path hp hk (exec_path h)).byte
  refine ⟨?_, ?_, ?_, ?_⟩
  · rintro (rfl | ⟨data, rfl⟩) hx
    all_goals exact keeps fun _ _ hm => by cases hm; exact .program hx _
  · rintro (rfl | rfl) hx
    all_goals exact keeps fun _ _ hm => by cases hm; exact (se_isUnitErase _).actKeeps hx
  · rintro (rfl | rfl) hx
    all_goals exact keeps fun _ _ hm => by cases hm; exact (be32_isUnitErase _).actKeeps hx
  · rintro (rfl | rfl) hx
    all_goals exact keeps fun _ _ hm => by cases hm; exact (be64_isUnitErase _).actKeeps hx

end Sys2Proof.Machine
end

/-! ## Frames the reference chip ignores or takes -/

section
namespace Sys2Proof.Machine

variable {p : Params} {e : Env} {op : WireOp}

theorem BusyLeft.isBusy_iff (b : BusyLeft) : b.isBusy = true ↔ b ≠ .samples 0 := by
  rcases b with (_ | n) | _ <;> simp [BusyLeft.isBusy]

/-- R72 (b): while busy, an awake REFCHIP takes the status read and the release only. -/
theorem refTakes_busy (hp : p.wf = true) {c : RefChip} (hpd : c.pd = false)
    (hb : c.busyLeft.isBusy = true) (ho : op ≠ .rdsr1) (ho' : op ≠ .rpd) :
    refTakes p c (p.opc op) = false := by
  have hne : p.opc op ≠ p.opcRdsr1 := (Params.opc_eq_iff hp op .rdsr1).not.2 ho
  have hne' : p.opc op ≠ p.opcRpd := (Params.opc_eq_iff hp op .rpd).not.2 ho'
  simp [refTakes, hpd, hb, hne, hne']

/-- R72 (a): powered down, it takes the release only. -/
theorem refTakes_asleep (hp : p.wf = true) {c : RefChip} (hpd : c.pd = true) (ho : op ≠ .rpd) :
    refTakes p c (p.opc op) = false := by
  have hne : p.opc op ≠ p.opcRpd := (Params.opc_eq_iff hp op .rpd).not.2 ho
  simp [refTakes, hpd, hne]

/-- R79 (assumption 19): the release is taken in every condition. -/
theorem refTakes_rpd (c : RefChip) : refTakes p c (p.opc .rpd) = true := by
  simp [refTakes, Params.opc]

theorem Env.frameEnd_not_taken (hp : p.wf = true) (h : e.bus = .refChip) (ho : op ≠ .rdsr1)
    (ht : refTakes p e.chip (p.opc op) = false) (tx : List Byte) (nrx : Nat) :
    (Env.frameEnd p (p.opc op) tx nrx e).bus = .refChip ∧
      (Env.frameEnd p (p.opc op) tx nrx e).chip = { e.chip with frame := [] } := by
  have hf := Env.frameEnd_ref hp h ho tx nrx
  rw [ht, if_neg Bool.false_ne_true] at hf
  exact Prod.mk.inj hf

theorem Env.frameEnd_taken (hp : p.wf = true) (h : e.bus = .refChip) (ho : op ≠ .rdsr1)
    (ht : refTakes p e.chip (p.opc op) = true) {tx : List Byte} {nrx : Nat} {c : RefChip}
    (hl : refLengthOk op (tx.length + nrx) = true)
    (ha : refAct p { e.chip with frame := [] } op (tx ++ dummies nrx) = some c) :
    (Env.frameEnd p (p.opc op) tx nrx e).bus = .refChip ∧
      (Env.frameEnd p (p.opc op) tx nrx e).chip = c := by
  have hf := Env.frameEnd_ref hp h ho tx nrx
  rw [if_pos ht, if_pos hl, ha] at hf
  exact Prod.mk.inj hf

/-- Settles O57: what a chip does not take leaves it as it was and reads 0xFF. -/
theorem chipIgnoresFramesWhileBusy : Obligations.ChipIgnoresFramesWhileBusy := by
  intro s op tx nrx hp hb hpd hbusy ho ho'
  have ht := refTakes_busy hp hpd ((BusyLeft.isBusy_iff _).2 hbusy) ho ho'
  rw [frame_opc_eq]
  exact ⟨(Env.frameEnd_not_taken hp hb ho ht tx nrx).2,
    Env.frameRx_not_taken hb ht ((Params.opc_eq_iff hp op .rdsr1).not.2 ho) tx nrx⟩

end Sys2Proof.Machine
end

/-! ## A powered-down reference chip -/

section
namespace Sys2Proof.Machine

variable {p : Params} {e : Env} {c : RefChip} {i : Instr} {s t : State}

theorem Env.frameDisc_asleep (h : e.bus = .refChip) (hpd : e.chip.pd = true) (opc : Byte)
    (tx : List Byte) : Env.frameDisc p opc tx e = List.replicate (tx.length + 1) 0xFF :=
  Env.answers_asleep (by rw [Env.select_bus, h]) (by rw [Env.select_chip, if_pos h, hpd]) _

theorem Env.frameRx_asleep (h : e.bus = .refChip) (hpd : e.chip.pd = true) (opc : Byte)
    (tx : List Byte) (nrx : Nat) : Env.frameRx p opc tx nrx e = List.replicate nrx 0xFF := by
  have hs : e.select.bus = .refChip := by rw [Env.select_bus, h]
  rw [Env.frameRx, Env.answers_asleep (by rw [Env.exchanges_bus, hs])
    (by rw [Env.exchanges_pd hs, Env.select_chip, if_pos h, hpd]), length_dummies]

/-- REFCHIP is attached and powered down, with the array and the latch of `c`. -/
structure SleepsAs (c : RefChip) (s : State) : Prop where
  legal    : s.params.wf = true
  attached : s.env.bus = .refChip
  asleep   : s.env.chip.pd = true
  mem      : s.env.chip.mem = c.mem
  wel      : s.env.chip.wel = c.wel

namespace SleepsAs

/-- A write of the block's own registers. -/
theorem of_eq (h : SleepsAs c s) (hp : t.params = s.params) (he : t.env = s.env) : SleepsAs c t :=
  ⟨hp ▸ h.legal, he ▸ h.attached, he ▸ h.asleep, he ▸ h.mem, he ▸ h.wel⟩

theorem sample (h : SleepsAs c s) : SleepsAs c (afterSample s) := by
  obtain ⟨hb, hc⟩ := Env.afterSample_ref h.legal h.attached
  rw [if_pos h.asleep] at hc
  exact ⟨h.legal, hb, (congrArg RefChip.pd hc).trans h.asleep, (congrArg RefChip.mem hc).trans h.mem,
    (congrArg RefChip.wel hc).trans h.wel⟩

/-- A command other than the release is ignored. -/
theorem command (h : SleepsAs c s) {op : WireOp} (ho : op ≠ .rdsr1) (ho' : op ≠ .rpd)
    (tx : List Byte) (nrx : Nat) : SleepsAs c (afterFrame op tx nrx s) := by
  obtain ⟨hb, hc⟩ := Env.frameEnd_not_taken h.legal h.attached ho
    (refTakes_asleep h.legal h.asleep ho') tx nrx
  exact ⟨h.legal, hb, (congrArg RefChip.pd hc).trans h.asleep, (congrArg RefChip.mem hc).trans h.mem,
    (congrArg RefChip.wel hc).trans h.wel⟩

theorem reading (h : SleepsAs c s) : SleepsAs c (afterReading s) :=
  ⟨h.legal, h.attached, h.asleep, h.mem, h.wel⟩

/-- The status byte 0xFF reads busy (R283). -/
theorem sampleBusy (h : SleepsAs c s) : SampleBusy s := by
  rw [sampleBusy_iff, Env.sample_ref h.legal h.attached, if_pos h.asleep]
  decide

theorem waitConfirm (h : SleepsAs c s) : SleepsAs c (waitConfirm s) := by
  have hs := (h.of_eq (t := { s with wstate := .timedOut }) rfl rfl).sample
  simp only [Machine.waitConfirm, statusBusy_eq]
  split
  · exact hs.of_eq rfl rfl
  · exact hs.of_eq rfl rfl

theorem waitPass (h : SleepsAs c s) (op : BitVec 4) (timeout : Millis) :
    SleepsAs c (waitPass op timeout s) := by
  simp only [Machine.waitPass, statusBusy_eq, nowMs_eq]
  split
  · split
    · exact h.sample.reading.waitConfirm
    · exact h.sample.reading.of_eq rfl rfl
  · exact h.sample.of_eq rfl rfl

/-- An operation whose first guard turns it away. -/
theorem turnedAway (h : SleepsAs c s) {r : Result} (hr : r = (.busy, afterSample s)) :
    SleepsAs c r.2 := hr ▸ h.sample

theorem issueThen (h : SleepsAs c s) {op : WireOp} (hg : wireGuarded op = true) (tx : List Byte)
    (nrx : Nat) (write : List Byte → State → State) : SleepsAs c (issueThen op tx nrx write s).2 :=
  h.turnedAway (issueThen_busy tx nrx write hg h.sampleBusy)

theorem erase (h : SleepsAs c s) {op : WireOp} (hn : wireNeedsWriteEnable op = true)
    (tx : List Byte) (code : BitVec 4) (hold : Bool) (timeout : Millis) :
    SleepsAs c (erase op tx code hold timeout s) := by
  rw [Machine.erase, mutate_busy hn tx h.sampleBusy]
  exact h.sample.of_eq rfl rfl

/-- Every guard turns the instruction away, and what is sent without a guard is ignored, but for the
release (R291). -/
theorem exec (h : SleepsAs c s) (hi : i ≠ .releasePowerDown) (hi' : i ≠ .rpd)
    (he : exec i s = .next t) : SleepsAs c t := by
  have ends {r : Result} (hr : SleepsAs c r.2) : SleepsAs c (finishWith r) := hr.of_eq rfl rfl
  cases i <;> obtain rfl := Host.Outcome.next.inj he
  case releasePowerDown => exact absurd rfl hi
  case rpd => exact absurd rfl hi'
  case init cs =>
    have hc : SleepsAs c (initConfigure cs s) := h.of_eq rfl rfl
    have hg : wireGuarded s.params.idProbe.wireOp = true := by cases s.params.idProbe <;> rfl
    refine ends ?_
    rw [initBody, probeBody, issueThen_busy _ _ _ hg hc.sampleBusy, andThen_busy]
    exact hc.sample
  case enableWriting | disableWriting | readPage | getJedec => exact ends (h.issueThen rfl ..)
  case writePage a => exact ends (h.turnedAway (mutate_busy rfl _ h.sampleBusy))
  case eraseSector | eraseBlock32 | eraseBlock64 | eraseChip => exact h.erase rfl ..
  case busy =>
    rw [statusBusy_eq]
    exact h.sample.of_eq rfl rfl
  case waitUntilFree timeout =>
    have hn : SleepsAs c { (nowMs s).2 with t0 := (nowMs s).1 } := h.reading.of_eq rfl rfl
    exact hn.waitPass 0xB timeout
  case reset => exact ends (h.turnedAway (resetBody_busy h.sampleBusy))
  case powerDown =>
    refine ends ?_
    rw [pdBody, issueThen_busy _ _ _ rfl h.sampleBusy, andThen_busy]
    exact h.sample
  case reservedF => exact h.of_eq rfl rfl
  case rdsr1 =>
    rw [statusBusy_eq]
    exact h.sample
  case jedec use => cases use <;> exact h.issueThen rfl ..
  case rst =>
    rw [rstBody, issueThen_unguarded _ _ _ rfl]
    exact (h.command (by decide) (by decide) [] 0).of_eq rfl rfl
  all_goals exact h.issueThen rfl ..

end SleepsAs

/-- Settles O58: every instruction but the release, and every pass of a wait, keeps `SleepsAs`. -/
theorem chipAsleepReadsBusy : Obligations.ChipAsleepReadsBusy := by
  intro s hp hb hpd
  have h : SleepsAs s.env.chip s := ⟨hp, hb, hpd, rfl, rfl⟩
  have wakes : (rpdBody s).2.env.chip =
      { s.env.chip with pd := false, rsten := false, frame := [] } := by
    rw [rpdBody, issueThen_unguarded _ _ _ rfl]
    exact (Env.frameEnd_taken hp hb (by decide) (refTakes_rpd _) rfl rfl).2
  have done {t : State} (ht : SleepsAs s.env.chip t) :
      t.env.bus = .refChip ∧ t.env.chip.pd = true ∧ t.env.chip.mem = s.env.chip.mem ∧
        t.env.chip.wel = s.env.chip.wel := ⟨ht.attached, ht.asleep, ht.mem, ht.wel⟩
  refine ⟨fun op tx nrx => ?_, h.sampleBusy, ⟨_, rfl, ?_⟩,
    fun i t hi hi' he => done (h.exec hi hi' he), fun op timeout t he => ?_,
    ⟨_, rfl, rfl, wakes⟩, ⟨_, rfl, wakes⟩⟩
  · simp only [frame_opc_eq, afterFrame, Env.frameDisc_asleep hb hpd, Env.frameRx_asleep hb hpd]
  · exact congrArg Prod.fst (resetBody_busy h.sampleBusy)
  · obtain rfl := Host.Outcome.next.inj he
    exact done (h.waitPass op timeout)

end Sys2Proof.Machine
end

/-! ## A ready reference chip -/

section
namespace Sys2Proof.Machine

variable {p : Params} {e : Env} {s : State} {op : WireOp}

/-- REFCHIP between two transactions, its reset-enable cleared, as a status read leaves a ready one. -/
abbrev RefChip.disarmed (c : RefChip) : RefChip := { c with rsten := false, frame := [] }

namespace RefReady

theorem not_busy (hr : RefReady s) : s.env.chip.busyLeft.isBusy = false := by rw [hr.free]; rfl

theorem sampleReady (hr : RefReady s) (hp : s.params.wf = true) : SampleReady s :=
  (sampleReady_ref hp hr.attached hr.awake).2 hr.not_busy

theorem sample_chip (hr : RefReady s) (hp : s.params.wf = true) :
    (afterSample s).env.chip = s.env.chip.disarmed := by
  have hc := (Env.afterSample_ref hp hr.attached).2
  have hl : s.env.chip.busyLeft.afterSample = s.env.chip.busyLeft := by rw [hr.free]; rfl
  rwa [hr.awake, if_neg Bool.false_ne_true, hl] at hc

theorem sample (hr : RefReady s) (hp : s.params.wf = true) : RefReady (afterSample s) where
  attached := (Env.afterSample_ref hp hr.attached).1
  awake := by rw [hr.sample_chip hp]; exact hr.awake
  free := by rw [hr.sample_chip hp]; exact hr.free

/-- A ready REFCHIP takes every frame it does not refuse. -/
theorem command (hr : RefReady s) (hp : s.params.wf = true) (ho : op ≠ .rdsr1) {tx : List Byte}
    {nrx : Nat} {c : RefChip} (hl : refLengthOk op (tx.length + nrx) = true)
    (ha : refAct s.params { s.env.chip with frame := [] } op (tx ++ dummies nrx) = some c) :
    (afterFrame op tx nrx s).env.bus = .refChip ∧ (afterFrame op tx nrx s).env.chip = c :=
  Env.frameEnd_taken hp hr.attached ho (refTakes_free hr.awake hr.not_busy _) hl ha

/-- A guarded command: the sample disarms the chip, then the frame takes effect. -/
theorem issueThen (hr : RefReady s) (hp : s.params.wf = true) (hg : wireGuarded op = true)
    {tx : List Byte} {nrx : Nat} {write : List Byte → State → State} {c : RefChip}
    (hl : refLengthOk op (tx.length + nrx) = true)
    (ha : refAct s.params s.env.chip.disarmed op (tx ++ dummies nrx) = some c)
    (hw : ∀ rx u, (write rx u).env = u.env) :
    (issueThen op tx nrx write s).2.env.bus = .refChip ∧
      (issueThen op tx nrx write s).2.env.chip = c := by
  have ho : op ≠ .rdsr1 := fun he => absurd (he ▸ hg) (by decide)
  rw [issueThen_ready tx nrx write hg (hr.sampleReady hp), hw]
  exact (hr.sample hp).command hp ho hl (by rw [hr.sample_chip hp]; exact ha)

/-- What is left of a ready chip by a frame that did no more than disarm it, its latch being clear. -/
theorem ignored {t : State} (hr : RefReady s) (hw : s.env.chip.wel = false)
    (hc : t.env.chip = s.env.chip.disarmed) : t.env.chip.mem = s.env.chip.mem ∧
      t.env.chip.wel = false ∧ t.env.chip.busyLeft = .samples 0 := by
  rw [hc]
  exact ⟨rfl, hw, hr.free⟩

theorem mutateBody (hr : RefReady s) (hp : s.params.wf = true) (hg : wireGuarded op = true)
    {tx : List Byte} {c : RefChip} (hl : refLengthOk op tx.length = true)
    (ha : refAct s.params s.env.chip.disarmed op tx = some c) :
    (mutateBody op tx s).2.env.bus = .refChip ∧ (mutateBody op tx s).2.env.chip = c :=
  hr.issueThen hp hg hl (by rw [dummies, List.replicate_zero, List.append_nil, ha]) fun _ _ => rfl

end RefReady

/-! ### Programs and erases at a ready chip -/

theorem refPageOk_of {a : Addr} (ha : a.toNat % 256 = 0) (hc : a.toNat < p.capacityBytes) :
    refPageOk p a = true := by simp [refPageOk, pageSize, ha, hc]

/-- Settles O55: the frame REFCHIP accepts carries the payload as sent, and the program is an AND with
what was there. -/
theorem chipProgramsPage : Obligations.ChipProgramsPage := by
  intro s a data hp hr hm hlen ha hcap
  have hl : refLengthOk .pp (programPayload a data).length = true := by
    simp [refLengthOk, programPayload, hlen, wireArgLength]
  have hact : refAct s.params s.env.chip.disarmed .pp (programPayload a data) =
      some (refProgram s.env.chip.disarmed a data) := by
    simp only [refAct, programPayload, refArgAddr_addrBytes, refPageOk_of ha hcap, drop_addrBytes,
      if_true]
  obtain ⟨hb, hc⟩ := hr.mutateBody hp rfl hl hact
  refine ⟨_, rfl, hb, fun hw => ?_, fun hw => ?_⟩
  · have hc := hc.trans (if_pos hw)
    refine ⟨fun i hi => ?_, congrArg RefChip.wel hc, congrArg RefChip.busyLeft hc⟩
    refine (congrArg (·.mem.read (a.toNat + i)) hc).trans ((Memory.read_program _ _ _ hm).trans ?_)
    rw [if_pos (by omega), Nat.add_sub_cancel_left]
  · exact hr.ignored hw (hc.trans (if_neg (by simp [hw])))

/-- An address in the unit of `a` is in the range an erase at `a` blanks (R77). -/
theorem mem_unit_of_div_eq {a x unit : Nat} (hu : 0 < unit) (hx : x / unit = a / unit) :
    a - a % unit ≤ x ∧ x < a - a % unit + unit := by
  have ha := Nat.div_add_mod a unit
  have hd := Nat.div_add_mod x unit
  have hlt := Nat.mod_lt x hu
  rw [hx] at hd
  omega

/-- What a chip whose latch was set looks like after an erase that blanks `range`. -/
structure Erased (range : Nat → Prop) (busy : BusyLeft) (c : RefChip) : Prop where
  wel   : c.wel = false
  busy  : c.busyLeft = busy
  blank : ∀ x, range x → c.mem.read x = 0xFF

theorem refErase_erased {c : RefChip} (hw : c.wel = true) (a : Addr) {unit : Nat} (hu : 0 < unit)
    (busy : BusyLeft) :
    Erased (fun x => x / unit = a.toNat / unit) busy (refErase c a unit busy) := by
  rw [refErase, if_pos hw]
  exact ⟨rfl, rfl, fun x hx =>
    (Memory.read_eraseRange ..).trans (if_pos (mem_unit_of_div_eq hu hx))⟩

theorem refEraseChip_erased {c : RefChip} (hw : c.wel = true) :
    Erased (fun _ => True) c.fixture.busyCe (refEraseChip c) := by
  rw [refEraseChip, if_pos hw]
  exact ⟨rfl, rfl, fun _ _ => rfl⟩

/-- One of the three unit erases at a ready chip. -/
theorem RefReady.eraseUnit (hr : RefReady s) (hp : s.params.wf = true) {a : Addr}
    (hcap : a.toNat < s.params.capacityBytes) {unit : Nat} {busy : Fixture → BusyLeft}
    (hop : IsUnitErase s.params op unit busy) :
    (Machine.mutateBody op (addrBytes a) s).2.env.bus = .refChip ∧
      (Machine.mutateBody op (addrBytes a) s).2.env.chip =
        refErase s.env.chip.disarmed a unit (busy s.env.chip.fixture) := by
  refine hr.mutateBody (tx := addrBytes a) hp hop.guarded hop.length ?_
  rw [hop.act, show refArgAddr (addrBytes a) = a from addrOfBytes_extract a, if_pos hcap]

/-- Settles O56: a taken erase blanks its range with the latch set, and is ignored with it clear. -/
theorem chipErasesUnit : Obligations.ChipErasesUnit := by
  intro s a hp hr hcap
  have chip : (mutateBody .ce [] s).2.env.bus = .refChip ∧
      (mutateBody .ce [] s).2.env.chip = refEraseChip s.env.chip.disarmed :=
    hr.mutateBody hp rfl rfl rfl
  refine ⟨fun hw => ?_, fun hw i hi => ?_⟩
  · have erased {op unit busy} (hop : IsUnitErase s.params op unit busy) :
        Erased (fun x => x / unit = a.toNat / unit) (busy s.env.chip.fixture)
          (mutateBody op (addrBytes a) s).2.env.chip :=
      (hr.eraseUnit hp hcap hop).2 ▸ refErase_erased (c := s.env.chip.disarmed) hw a hop.pos _
    have hse := erased (se_isUnitErase _)
    have hbe32 := erased (be32_isUnitErase _)
    have hbe64 := erased (be64_isUnitErase _)
    have hce := chip.2 ▸ refEraseChip_erased (c := s.env.chip.disarmed) hw
    exact ⟨⟨_, rfl, hse.wel, hse.busy, hse.blank⟩, ⟨_, rfl, hbe32.wel, hbe32.busy, hbe32.blank⟩,
      ⟨_, rfl, hbe64.wel, hbe64.busy, hbe64.blank⟩,
      ⟨_, rfl, hce.wel, hce.busy, fun x => hce.blank x trivial⟩⟩
  · have unitIgnored {op unit busy} (hop : IsUnitErase s.params op unit busy) :
        (mutateBody op (addrBytes a) s).2.env.bus = .refChip ∧
          (mutateBody op (addrBytes a) s).2.env.chip = s.env.chip.disarmed :=
      (hr.eraseUnit hp hcap hop).imp_right (·.trans (if_neg (by simp [hw])))
    have chipIgnored := chip.2.trans (if_neg (by simp [hw]))
    simp only [List.mem_cons, List.not_mem_nil, or_false] at hi
    rcases hi with rfl | rfl | rfl | rfl
    · exact ⟨_, rfl, (unitIgnored (se_isUnitErase _)).imp_right (hr.ignored hw)⟩
    · exact ⟨_, rfl, (unitIgnored (be32_isUnitErase _)).imp_right (hr.ignored hw)⟩
    · exact ⟨_, rfl, (unitIgnored (be64_isUnitErase _)).imp_right (hr.ignored hw)⟩
    · exact ⟨_, rfl, chip.1, hr.ignored hw chipIgnored⟩

end Sys2Proof.Machine
end

/-! ## What the reference chip answers -/

section
namespace Sys2Proof.Machine

variable {p : Params} {e : Env} {c : RefChip} {s : State} {op : WireOp}

/-- A chip that answers from a list of bytes, by the number of bytes received since the opcode. -/
theorem Env.answers_listed {opc : Byte} {got bytes : List Byte} (ho : opc ≠ p.opcRdsr1)
    (ha : ∀ g, refAnswer p { c with frame := opc :: g } = bytes[g.length]?) (h : e.bus = .refChip)
    (hc : e.chip = { c with frame := opc :: got }) (bs : List Byte)
    (hn : got.length + bs.length ≤ bytes.length) :
    Env.answers p bs e = (bytes.drop got.length).take bs.length := by
  induction bs generalizing e got with
  | nil => rfl
  | cons b bs ih =>
    have hlt : got.length < bytes.length := by simp only [List.length_cons] at hn; omega
    have hans : e.answer p = bytes[got.length] := by
      simp only [Env.answer, h, hc, ha, List.getElem?_eq_getElem hlt, Option.getD_some]
    have hx : (e.exchange p b).chip = { c with frame := opc :: (got ++ [b]) } := by
      rw [Env.exchange_chip, if_pos h, hc]
      exact foldl_refShift (c := { c with frame := opc :: got }) rfl ho [b]
    rw [Env.answers, hans, ih (by rw [Env.exchange_bus, h]) hx (by simp at hn ⊢; omega),
      List.drop_eq_getElem_cons hlt, List.length_cons, List.take_succ_cons, List.length_append]
    rfl

/-- REFCHIP when the bytes of a command are sent and none is received yet. -/
theorem Env.sent_ref (hp : p.wf = true) (h : e.bus = .refChip) (ho : op ≠ .rdsr1) (tx : List Byte) :
    (Env.exchanges p (p.opc op :: tx) e.select).bus = .refChip ∧
      (Env.exchanges p (p.opc op :: tx) e.select).chip =
        { e.chip with frame := p.opc op :: tx } := by
  refine ⟨by rw [Env.exchanges_bus, Env.select_bus, h], ?_⟩
  simpa [Env.frameOpen, dummies, Env.exchanges] using Env.frameOpen_chip hp h ho tx 0

theorem Env.frameRx_listed (hp : p.wf = true) (h : e.bus = .refChip) (ho : op ≠ .rdsr1)
    {bytes : List Byte}
    (ha : ∀ g, refAnswer p { e.chip with frame := p.opc op :: g } = bytes[g.length]?) {nrx : Nat}
    (hn : nrx ≤ bytes.length) : Env.frameRx p (p.opc op) [] nrx e = bytes.take nrx := by
  obtain ⟨hb, hc⟩ := Env.sent_ref hp h ho []
  have hl := Env.answers_listed ((Params.opc_eq_iff hp op .rdsr1).not.2 ho) ha hb hc (dummies nrx)
    (by simpa using hn)
  rw [length_dummies] at hl
  exact hl

/-- The array bytes a READ receives (R76). -/
theorem Env.frameRx_read (hp : p.wf = true) (h : e.bus = .refChip)
    (ht : refTakes p e.chip (p.opc .read) = true) {a : Addr} (ha : refPageOk p a = true) :
    Env.frameRx p (p.opc .read) (addrBytes a) pageSize e =
      e.chip.mem.readBytes a.toNat pageSize := by
  obtain ⟨hb, hc⟩ := Env.sent_ref hp h (op := .read) (by decide) (addrBytes a)
  have hr := Env.answers_read (got := []) hp hb (by rw [hc]; rfl) (by rw [hc]; exact ht) ha
    (addrOfBytes_extract a) (dummies pageSize) (by simp [pageSize])
  rw [hc, length_dummies] at hr
  exact hr

namespace RefReady

/-- What a guarded command receives from a chip that answers from a list. -/
theorem issueThen_listed (hr : RefReady s) (hp : s.params.wf = true) (hg : wireGuarded op = true)
    {bytes : List Byte}
    (ha : ∀ g, refAnswerAwake s.params { s.env.chip.disarmed with frame := s.params.opc op :: g } =
      bytes[g.length]?) {nrx : Nat} (hn : nrx ≤ bytes.length) (write : List Byte → State → State) :
    (Machine.issueThen op [] nrx write s).2 =
      write (bytes.take nrx) (afterFrame op [] nrx (afterSample s)) := by
  have ho : op ≠ .rdsr1 := fun he => absurd (he ▸ hg) (by decide)
  rw [issueThen_ready [] nrx write hg (hr.sampleReady hp)]
  refine congrArg (write · _) (Env.frameRx_listed hp (hr.sample hp).attached ho (fun g => ?_) hn)
  rw [← ha g, ← hr.sample_chip hp]
  exact refAnswer_awake (hr.sample hp).awake

/-- JEDEC's answers (R81). -/
theorem answers_jedec (hr : RefReady s) (hp : s.params.wf = true) (g : List Byte) :
    refAnswerAwake s.params { s.env.chip.disarmed with frame := s.params.opc .jedec :: g } =
      (refJedecBytes s.env.chip.fixture)[g.length]? := by
  simp only [refAnswerAwake, refTakes, hr.awake, hr.not_busy, wireOpOf_opc hp]
  rfl

/-- MFR_DEV_ID's answers (R81; assumption 31). -/
theorem answers_mfrDevId (hr : RefReady s) (hp : s.params.wf = true) (g : List Byte) :
    refAnswerAwake s.params { s.env.chip.disarmed with frame := s.params.opc .mfrDevId :: g } =
      (refMfrBytes s.env.chip.fixture)[g.length]? := by
  simp only [refAnswerAwake, refTakes, hr.awake, hr.not_busy, wireOpOf_opc hp]
  rfl

/-- READ fills the page buffer from the array (R76). -/
theorem readBody_pb (hr : RefReady s) (hp : s.params.wf = true) {a : Addr}
    (ha : refPageOk s.params a = true) {k : Nat} (hk : k < 256) :
    (readBody a s).2.pb[k] = s.env.chip.mem.read (a.toNat + k) := by
  have hs := hr.sample hp
  have hrx := Env.frameRx_read (p := s.params) hp hs.attached
    (refTakes_free hs.awake hs.not_busy _) ha
  rw [hr.sample_chip hp] at hrx
  have hpb : (readBody a s).2.pb = pageOfBytes (s.env.chip.mem.readBytes a.toNat pageSize) := by
    rw [readBody, issueThen_ready _ _ _ rfl (hr.sampleReady hp)]
    exact congrArg pageOfBytes hrx
  simp only [hpb, pageOfBytes, Vector.getElem_ofFn]
  exact Memory.getD_readBytes _ _ _ _ hk

end RefReady

/-- RST clears the latch of a ready chip exactly when it is armed, and disarms it (R80). -/
theorem refRst_eq (hpd : c.pd = false) (hb : c.busyLeft = .samples 0) :
    refRst c = { c with wel := c.wel && !c.rsten, rsten := false } := by
  obtain ⟨mem, wel, busyLeft, pd, rsten, frame, fixture⟩ := c
  subst hpd hb
  cases rsten <;> simp [refRst]

/-- RST at a ready chip. -/
theorem RefReady.rst (hr : RefReady s) (hp : s.params.wf = true) :
    (afterFrame .rst [] 0 s).env.bus = .refChip ∧ (afterFrame .rst [] 0 s).env.chip =
      { s.env.chip with wel := s.env.chip.wel && !s.env.chip.rsten, rsten := false, frame := [] } :=
  hr.command hp (by decide) rfl
    (congrArg some (refRst_eq (c := { s.env.chip with frame := [] }) hr.awake hr.free))

/-- RESET sends RSTEN, then RST to the chip it armed (R80, R202). -/
theorem resetBody_ref (hp : s.params.wf = true) (hr : RefReady s) :
    (resetBody s).1 = .ok ∧ (resetBody s).2.env.bus = .refChip ∧
      (resetBody s).2.env.chip = { s.env.chip with wel := false, rsten := false, frame := [] } := by
  obtain ⟨hb, hc⟩ :=
    (hr.sample hp).command (op := .rsten) (tx := []) (nrx := 0) hp (by decide) rfl rfl
  rw [hr.sample_chip hp] at hc
  have harmed : RefReady (afterFrame .rsten [] 0 (afterSample s)) :=
    ⟨hb, by rw [hc]; exact hr.awake, by rw [hc]; exact hr.free⟩
  obtain ⟨hb', hc'⟩ := harmed.rst hp
  rw [hc] at hc'
  rw [resetBody_ready (hr.sampleReady hp)]
  exact ⟨rfl, hb', hc'.trans (by simp)⟩

theorem refStatusByte_toNat (wel : Bool) (b : BusyLeft) :
    (refStatusByte wel b.isBusy).toNat = 2 * wel.toNat + if b = .samples 0 then 0 else 1 := by
  have hbit (busy : Bool) : (refStatusByte wel busy).toNat = 2 * wel.toNat + busy.toNat := by
    cases wel <;> cases busy <;> rfl
  rw [hbit]
  rcases b with (_ | n) | _ <;> simp [BusyLeft.isBusy]

/-- R73, R74: what a status read gets from an awake chip, and what it leaves. -/
theorem statusBusy_awake (hp : s.params.wf = true) (hb : s.env.bus = .refChip)
    (hpd : s.env.chip.pd = false) :
    s.env.sample s.params = refStatusByte s.env.chip.wel s.env.chip.busyLeft.isBusy ∧
      (afterSample s).env.bus = .refChip ∧ (afterSample s).env.chip =
        { s.env.chip.disarmed with busyLeft := s.env.chip.busyLeft.afterSample } := by
  have hs := Env.sample_ref hp hb
  obtain ⟨hb', hc⟩ := Env.afterSample_ref hp hb
  rw [hpd, if_neg Bool.false_ne_true] at hs hc
  exact ⟨hs, hb', hc⟩

/-- Settles O54, a command at a time: what the chip received decides its answer and its next state. -/
theorem chipAnswersControlCommands : Obligations.ChipAnswersControlCommands := by
  intro s hp hb hpd
  refine ⟨?_, fun hfree => ?_⟩
  · obtain ⟨hs, hb', hc⟩ := statusBusy_awake hp hb hpd
    refine ⟨_, _, afterSample s, congrArg _ (congrArg Prod.snd (statusBusy_eq s)), rfl, ?_, hb', ?_⟩
    · rw [hs, refStatusByte_toNat]
    · rw [hc]
      rcases s.env.chip.busyLeft with (_ | n) | _ <;> rfl
  · have hr : RefReady s := ⟨hb, hpd, hfree⟩
    refine ⟨?ident, ?probe, ?mfrDevId, ?wren, ?wrdi, ?page, ?pd, ?rpd, ?rsten, ?rst, ?reset⟩
    case ident =>
      have h := hr.issueThen_listed hp rfl (hr.answers_jedec hp) (nrx := 3)
        (Nat.le_of_ble_eq_true rfl)
      exact ⟨_, rfl, congrArg State.idMfr (h _), congrArg State.idType (h _),
        congrArg State.idCap (h _), hr.issueThen hp rfl rfl rfl fun _ _ => rfl⟩
    case probe =>
      have h := hr.issueThen_listed hp rfl (hr.answers_jedec hp) (nrx := 5)
        (Nat.le_of_ble_eq_true rfl)
      exact ⟨_, rfl, congrArg (·.probe.toList) (h _), hr.issueThen hp rfl rfl rfl fun _ _ => rfl⟩
    case mfrDevId =>
      have h := hr.issueThen_listed hp rfl (hr.answers_mfrDevId hp) (nrx := 5)
        (Nat.le_of_ble_eq_true rfl)
      exact ⟨_, rfl, congrArg (·.probe.toList) (h _), hr.issueThen hp rfl rfl rfl fun _ _ => rfl⟩
    case page =>
      intro a ha hcap i hi
      have hpage := refPageOk_of ha hcap
      have hread : (readBody a s).2.env.bus = .refChip ∧
          (readBody a s).2.env.chip = s.env.chip.disarmed :=
        hr.issueThen hp rfl rfl (by rw [refAct, refArgAddr_addrBytes, if_pos hpage]) fun _ _ => rfl
      simp only [List.mem_cons, List.not_mem_nil, or_false] at hi
      rcases hi with rfl | rfl
      all_goals exact ⟨_, rfl, fun k hk => hr.readBody_pb hp hpage hk, hread⟩
    case rpd =>
      refine ⟨_, rfl, ?_⟩
      rw [rpdBody, issueThen_unguarded _ _ _ rfl]
      exact hr.command hp (by decide) rfl rfl
    case rst =>
      refine ⟨_, rfl, ?_⟩
      rw [rstBody, issueThen_unguarded _ _ _ rfl]
      exact hr.rst hp
    case reset => exact ⟨_, rfl, resetBody_ref hp hr⟩
    case wren | wrdi | pd | rsten =>
      exact ⟨_, rfl, hr.issueThen hp rfl rfl rfl fun _ _ => rfl⟩

end Sys2Proof.Machine
end

/-! ## The guard discipline of a machine driven by requests -/

section
namespace Sys2Proof.Machine

variable {i : Instr} {s t : State} {g : Grant}

/-- A legal block whose trace, disciplined so far, lets the next transaction be what `g` allows. -/
structure Grants (s : State) (g : Grant) : Prop where
  legal : s.params.wf = true
  run   : guardRun s.params (.closed .none) s.trace = some (.closed g)

theorem guarded_iff (p : Params) (tr : List Event) :
    Guarded p tr ↔ ∃ g, guardRun p (.closed .none) tr = some (.closed g) := by
  unfold Guarded
  rcases guardRun p (.closed .none) tr with _ | (g | g | _ | b | r) <;> simp [GuardState.isClosed]

/-- Under a ready sample a host operation may send what it sends: it has no raw RST, and it probes with
MFR_DEV_ID only where the configuration does (R106, R154). -/
theorem Sends.allowed {p : Params} {op : WireOp} {tx : List Byte} (h : Sends p i op tx)
    (hi : requestCode i ≠ none) : commandAllowed p .ready op = true := by
  cases h with
  | mutates hm => cases hm <;> rfl
  | probe _ hp => simp [commandAllowed, hp]
  | mfrDevId => exact absurd rfl hi
  | wren | wrdi | read | pd | jedec | rsten => rfl

namespace Grants

/-- A write that neither the configuration nor the trace sees. -/
theorem of_eq (h : Grants s g) (hp : t.params = s.params) (ht : t.trace = s.trace) : Grants t g :=
  ⟨hp ▸ h.legal, hp ▸ ht ▸ h.run⟩

theorem append {g' : Grant} {evs : List Event} (h : Grants s g) (hp : t.params = s.params)
    (ht : t.trace = s.trace ++ evs)
    (he : guardRun s.params (.closed g) evs = some (.closed g')) : Grants t g' :=
  ⟨hp ▸ h.legal, by rw [hp, ht, guardRun_append, h.run, Option.bind_some, he]⟩

theorem sample (h : Grants s g) :
    Grants (afterSample s) (if busyBit (s.env.sample s.params) then .none else .ready) :=
  h.append rfl rfl (guardRun_statusFrame s g _ _ h.legal)

theorem sampleReady (h : Grants s g) (hr : SampleReady s) : Grants (afterSample s) .ready := by
  simpa [(sampleReady_iff s).1 hr] using h.sample

theorem command {op : WireOp} (h : Grants s g) (ho : op ≠ .rdsr1)
    (ha : commandAllowed s.params g op = true) (tx : List Byte) (nrx : Nat) :
    Grants (afterFrame op tx nrx s) (if op = .rsten then .armed else .none) :=
  h.append rfl rfl (guardRun_wireFrame s g tx _ _ h.legal (Env.length_frameDisc ..) ho ha)

theorem reading (h : Grants s g) : Grants (afterReading s) .none := h.append rfl rfl rfl

theorem delay (h : Grants s g) (n : Nat) : Grants (delayUs n s) .none := h.append rfl rfl rfl

/-- RSTEN under a ready sample and RST at once (R202, R290). -/
theorem pair (h : Grants s g) (hr : SampleReady s) :
    Grants (afterFrame .rst [] 0 (afterFrame .rsten [] 0 (afterSample s))) .none :=
  ((h.sampleReady hr).command (by decide) rfl [] 0).command (by decide) rfl [] 0

/-- Whatever a host operation does on the bus keeps the discipline. -/
theorem path (h : Grants s g) (hi : requestCode i ≠ none) (hp : Path i s t) : ∃ g', Grants t g' := by
  induction hp with
  | refl => exact ⟨g, h⟩
  | quiet _ hq ih => exact ih.imp fun _ hu => hu.of_eq hq.params hq.trace
  | sample _ ih => exact ih.elim fun _ hu => ⟨_, hu.sample⟩
  | command nrx hu hr hs ih =>
    obtain ⟨_, hg⟩ := ih
    exact ⟨_, (hg.sampleReady hr).command (fun he => absurd (he ▸ hs.guarded) (by decide))
      (hu.params ▸ hs.allowed hi) _ nrx⟩
  | pair _ hr ih => exact ih.elim fun _ hu => ⟨_, hu.pair hr⟩
  | release _ ih => exact ih.elim fun _ hu => ⟨_, hu.command (by decide) rfl [] 0⟩
  | rawRst _ he => exact absurd (he ▸ rfl) hi
  | reading _ ih => exact ih.elim fun _ hu => ⟨_, hu.reading⟩
  | delay n _ ih => exact ih.elim fun _ hu => ⟨_, hu.delay n⟩

end Grants

theorem guardInv_iff (s : State) :
    GuardInv s ↔ (∃ g, Grants s g) ∧ s.hostIn.all (fun a => !a.isFrame) = true where
  mp h := ⟨((guarded_iff ..).1 h.guarded).imp fun _ hr => ⟨h.params_wf, hr⟩, h.no_raw⟩
  mpr h := h.1.elim fun _ hg => ⟨hg.legal, h.2, (guarded_iff ..).2 ⟨_, hg.run⟩⟩

/-- Every op code selects a host operation (R102). -/
theorem requestCode_instrOfOperands {op : BitVec 4} {hold : Bool} {addr : Addr} {timeout : Millis}
    {csId : CsId} : requestCode (instrOfOperands op hold addr timeout csId) ≠ none := by
  unfold instrOfOperands
  split <;> exact Option.some_ne_none _

namespace GuardInv

theorem path (h : GuardInv s) (hi : requestCode i ≠ none) (hp : Path i s t) : GuardInv t := by
  obtain ⟨⟨g, hg⟩, hr⟩ := (guardInv_iff s).1 h
  exact (guardInv_iff t).2 ⟨hg.path hi hp, hp.hostIn ▸ hr⟩

/-- A host's action that is taken, once it has written what is neither the configuration's nor the
trace's. -/
theorem take (h : GuardInv s) {a : HostAction} {rest : List HostAction} (hh : s.hostIn = a :: rest)
    (hp : t.params = s.params) (ht : t.trace = s.trace) (hr : t.hostIn = rest) : GuardInv t where
  params_wf := hp ▸ h.params_wf
  no_raw := by
    have hall := h.no_raw
    rw [hh, List.all_cons, Bool.and_eq_true] at hall
    exact hr ▸ hall.2
  guarded := hp ▸ ht ▸ h.guarded

/-- No raw frame is next (assumption 10). -/
theorem not_frame (h : GuardInv s) {bytes : List Byte} {rest : List HostAction} :
    s.hostIn ≠ .frame bytes :: rest := by
  intro hh
  have hall := h.no_raw
  rw [hh] at hall
  cases hall

theorem step (h : GuardInv s) (hs : StepShape s t) : GuardInv t := by
  cases hs with
  | rest => exact h
  | setPB _ hh | readResult _ hh | hardReset hh | chipPowerCycle hh => exact h.take hh rfl rfl rfl
  | @request w rest _ _ hh he =>
    have ha : GuardInv (accept w { s with hostIn := rest }) := h.take hh rfl rfl rfl
    exact ha.path requestCode_instrOfOperands (exec_path he)
  | frame _ hh => exact absurd hh h.not_frame
  | latched _ he => exact h.path requestCode_instrOfOperands (exec_path he)
  | pass => exact h.path (i := .busy) (by decide) (Path.waitPass _ _ .refl)

end GuardInv

/-- Settles O44: every piece of a host operation's path is a transaction its grant allows, and a request
or a latched operation is a host operation. -/
theorem stepKeepsGuardDiscipline : Obligations.StepKeepsGuardDiscipline :=
  fun _ _ h hs => h.step (step_shape hs)

end Sys2Proof.Machine
end

/-! ## The request word and the address bytes -/

section
namespace Sys2Proof.Machine

/-- R99 with the reserved bits 58:56 at any value. -/
abbrev wordOfFields (op : BitVec 4) (hold : Bool) (reserved : BitVec 3) (addr : Addr)
    (arg : BitVec 32) : RequestWord :=
  op ++ BitVec.ofBool hold ++ reserved ++ addr ++ arg

section
variable (p : Params) (op : BitVec 4) (hold : Bool) (reserved : BitVec 3) (addr : Addr)
  (arg : BitVec 32)

theorem reqOpField_wordOfFields : reqOpField (wordOfFields op hold reserved addr arg) = op := by
  unfold reqOpField wordOfFields
  rw [BitVec.extractLsb'_append_eq_of_le (by decide), BitVec.extractLsb'_append_eq_of_le (by decide),
    BitVec.extractLsb'_append_eq_of_le (by decide), BitVec.extractLsb'_append_eq_of_le (by decide)]
  exact BitVec.extractLsb'_eq_self

theorem reqHoldField_wordOfFields : reqHoldField (wordOfFields op hold reserved addr arg) = hold := by
  unfold reqHoldField wordOfFields
  rw [BitVec.getLsbD_append, BitVec.getLsbD_append, BitVec.getLsbD_append, BitVec.getLsbD_append]
  simp

theorem reqAddrField_wordOfFields : reqAddrField (wordOfFields op hold reserved addr arg) = addr := by
  unfold reqAddrField wordOfFields
  rw [BitVec.extractLsb'_append_eq_of_le (by decide)]
  exact BitVec.extractLsb'_append_eq_right

theorem reqTimeoutField_wordOfFields :
    reqTimeoutField (wordOfFields op hold reserved addr arg) = arg := by
  exact BitVec.extractLsb'_append_eq_right

theorem reqCsIdField_wordOfFields :
    reqCsIdField p (wordOfFields op hold reserved addr arg) = csIdLow p arg.toNat :=
  congrArg (fun x : BitVec 32 => csIdLow p x.toNat) (reqTimeoutField_wordOfFields ..)

/-- The reserved bits are ignored: the operation is that of the four fields (R99, R100). -/
theorem decodeRequest_wordOfFields :
    decodeRequest p (wordOfFields op hold reserved addr arg) =
      instrOfOperands op hold addr arg (csIdLow p arg.toNat) := by
  simp only [decodeRequest, reqOpField_wordOfFields, reqHoldField_wordOfFields,
    reqAddrField_wordOfFields, reqTimeoutField_wordOfFields, reqCsIdField_wordOfFields]

theorem decodeRequest_requestWord :
    decodeRequest p (requestWord op hold addr arg) =
      instrOfOperands op hold addr arg (csIdLow p arg.toNat) :=
  decodeRequest_wordOfFields p op hold 0#3 addr arg

end

/-- At the default width the identifier is bits 7:0 of the word (assumption 7). -/
theorem reqCsIdField_of_width_eight {p : Params} (h : p.csIdW = 8) (w : RequestWord) :
    reqCsIdField p w = (w.extractLsb' 0 8).toNat := by
  simp only [reqCsIdField, csIdLow, h, BitVec.extractLsb'_toNat, Nat.shiftRight_zero]
  exact Nat.mod_mod_of_dvd _ (Nat.pow_dvd_pow 2 (by decide))

/-- Settles O3: each field is read back from its place in the word, and the decoder reads no other bit. -/
theorem requestWordFields : Obligations.RequestWordFields := by
  intro p op hold reserved addr arg w
  exact ⟨reqOpField_wordOfFields .., reqHoldField_wordOfFields .., reqAddrField_wordOfFields ..,
    reqTimeoutField_wordOfFields .., reqCsIdField_wordOfFields .., fun h =>
    reqCsIdField_of_width_eight h w,
    (decodeRequest_wordOfFields ..).trans (decodeRequest_requestWord ..).symm⟩

/-- Settles O5: the decoder selects by the op field alone, and `instrOfOperands` is the table of R100. -/
theorem opCodeMap : Obligations.OpCodeMap := by
  intro p h a g
  simp only [decodeRequest_requestWord]
  exact ⟨rfl, rfl, rfl, rfl, rfl, rfl, rfl, rfl, rfl, rfl, rfl, rfl, rfl, rfl, rfl, rfl⟩

/-- Three bytes joined to an address are split into the same three (R93). -/
theorem addrBytes_addrOfBytes (hi mid lo : Byte) : addrBytes (addrOfBytes hi mid lo) = [hi, mid, lo] := by
  have hhi : (hi ++ mid ++ lo).extractLsb' 16 8 = hi := by
    rw [BitVec.extractLsb'_append_eq_of_le (by decide)]
    exact BitVec.extractLsb'_append_eq_left
  have hmid : (hi ++ mid ++ lo).extractLsb' 8 8 = mid := by
    rw [BitVec.extractLsb'_append_eq_of_le (by decide)]
    exact BitVec.extractLsb'_append_eq_right
  have hlo : (hi ++ mid ++ lo).extractLsb' 0 8 = lo := BitVec.extractLsb'_append_eq_right
  simp only [addrBytes, addrOfBytes, hhi, hmid, hlo]

/-- The address bytes as numbers (R93). -/
theorem map_toNat_addrBytes (a : Addr) :
    (addrBytes a).map BitVec.toNat = [a.toNat / 65536, a.toNat / 256 % 256, a.toNat % 256] := by
  have ha := a.isLt
  simp [addrBytes, Nat.shiftRight_eq_div_pow]
  omega

/-- Settles O7: the numbers, and joining inverts splitting both ways. -/
theorem addressBytesHighFirst : Obligations.AddressBytesHighFirst :=
  fun a => ⟨map_toNat_addrBytes a, addrBytes_addrOfBytes, addrOfBytes_extract a⟩

end Sys2Proof.Machine
end

/-! ## Decoder and encoder -/

section
namespace Sys2Proof.Machine

variable {p : Params} {op : WireOp} {i j : Instr} {rest bytes : List Byte}

/-! ### What the decoder of one format accepts -/

theorem decodeBare_eq_ok : decodeBare op j rest = .ok i ↔ j = i ∧ rest = [] := by
  cases rest <;> simp [decodeBare]

theorem decodeRx_dummies (op : WireOp) (i : Instr) (n : Nat) :
    decodeRx op i n (dummies n) = .ok i := by
  simp [decodeRx]

theorem decodeRx_eq_ok {n : Nat} : decodeRx op j n rest = .ok i ↔ j = i ∧ rest = dummies n := by
  constructor
  · intro h
    unfold decodeRx at h
    split at h
    case h_1 hl hd =>
      exact ⟨Except.ok.inj h, by rw [(allDummy_iff _).1 hd, (hasLength_iff ..).1 hl]⟩
    all_goals cases h
  · rintro ⟨rfl, rfl⟩
    exact decodeRx_dummies ..

theorem decodeAddressed_addrBytes (op : WireOp) (f : Addr → Instr) (a : Addr) :
    decodeAddressed op f (addrBytes a) = .ok (f a) :=
  congrArg (fun x => Except.ok (f x)) (addrOfBytes_extract a)

theorem decodeAddressed_eq_ok {f : Addr → Instr} :
    decodeAddressed op f rest = .ok i ↔ ∃ a, f a = i ∧ rest = addrBytes a := by
  constructor
  · intro h
    unfold decodeAddressed at h
    split at h
    · exact ⟨_, Except.ok.inj h, (addrBytes_addrOfBytes ..).symm⟩
    · cases h
  · rintro ⟨a, rfl, rfl⟩
    exact decodeAddressed_addrBytes ..

/-- A page program's body is its address and 256 bytes (R92). -/
theorem decodeBody_pp_eq_ok : decodeBody .pp rest = .ok i ↔
    ∃ a data, .pp a data = i ∧ rest = addrBytes a ++ data ∧ data.length = 256 := by
  constructor
  · intro h
    simp only [decodeBody] at h
    split at h
    case h_1 hi mid lo data =>
      split at h
      · rename_i hl
        exact ⟨_, data, Except.ok.inj h, by rw [addrBytes_addrOfBytes]; rfl, (hasLength_iff ..).1 hl⟩
      · cases h
    · cases h
  · rintro ⟨a, data, rfl, rfl, hl⟩
    simp only [decodeBody, addrBytes, List.cons_append, List.nil_append, (hasLength_iff ..).2 hl,
      addrOfBytes_extract]

/-- A read's body is its address and 256 dummy bytes (R92, R97). -/
theorem decodeBody_read_eq_ok : decodeBody .read rest = .ok i ↔
    ∃ a, .read a = i ∧ rest = addrBytes a ++ dummies 256 := by
  constructor
  · intro h
    simp only [decodeBody] at h
    split at h
    · obtain ⟨rfl, rfl⟩ := decodeRx_eq_ok.1 h
      exact ⟨_, rfl, by rw [addrBytes_addrOfBytes]; rfl⟩
    · cases h
  · rintro ⟨a, rfl, rfl⟩
    simp only [decodeBody, addrBytes, List.cons_append, List.nil_append, addrOfBytes_extract]
    exact decodeRx_dummies ..

/-- JEDEC's body is 3 dummy bytes or 5 (R151). -/
theorem decodeBody_jedec_eq_ok : decodeBody .jedec rest = .ok i ↔
    (.jedec .ident = i ∧ rest = dummies 3) ∨ (.jedec .probe = i ∧ rest = dummies 5) := by
  simp only [decodeBody]
  split
  next hl =>
    have hne : rest ≠ dummies 5 := by rintro rfl; cases hl
    simp [decodeRx_eq_ok, hne]
  next hl =>
    have hne : rest ≠ dummies 3 := by rintro rfl; cases hl
    simp [decodeRx_eq_ok, hne]

/-! ### Frames -/

theorem decodeFrame_opc (hp : p.wf = true) (op : WireOp) (rest : List Byte) :
    decodeFrame p (p.opc op :: rest) = decodeBody op rest := by
  simp only [decodeFrame, wireOpOf_opc hp]

/-- A frame that decodes begins with a command's opcode and goes on with its body. -/
theorem exists_of_decodeFrame_ok (h : decodeFrame p bytes = .ok i) :
    ∃ op rest, bytes = p.opc op :: rest ∧ decodeBody op rest = .ok i := by
  unfold decodeFrame at h
  split at h
  · cases h
  · split at h
    · cases h
    · rename_i hop
      exact ⟨_, _, by rw [opc_of_wireOpOf hop], h⟩

/-- What a body decodes to is encoded as that body behind the command's opcode. -/
theorem encode_of_decodeBody (h : decodeBody op rest = .ok i) (p : Params) :
    encode p i = .frame (p.opc op :: rest) ∧ i.wf p = true := by
  cases op
  case rdsr1 | mfrDevId =>
    obtain ⟨rfl, rfl⟩ := decodeRx_eq_ok.1 h
    exact ⟨rfl, rfl⟩
  case se | be32 | be64 =>
    obtain ⟨a, rfl, rfl⟩ := decodeAddressed_eq_ok.1 h
    exact ⟨rfl, rfl⟩
  case pp =>
    obtain ⟨a, data, rfl, rfl, hl⟩ := decodeBody_pp_eq_ok.1 h
    exact ⟨rfl, by simp [Instr.wf, hl]⟩
  case read =>
    obtain ⟨a, rfl, rfl⟩ := decodeBody_read_eq_ok.1 h
    exact ⟨rfl, rfl⟩
  case jedec =>
    rcases decodeBody_jedec_eq_ok.1 h with ⟨rfl, rfl⟩ | ⟨rfl, rfl⟩
    · exact ⟨rfl, rfl⟩
    · exact ⟨rfl, rfl⟩
  all_goals
    obtain ⟨rfl, rfl⟩ := decodeBare_eq_ok.1 h
    exact ⟨rfl, rfl⟩

/-- A well-formed wire command's frame is read back (R92, R95, R96). -/
theorem decode_encode_of_command (hp : p.wf = true) (hi : i.wf p = true)
    (hc : commandOf i = some op) : decode p (encode p i) = .ok i := by
  have reads {rest} (he : encode p i = .frame (p.opc op :: rest))
      (hb : decodeBody op rest = .ok i) : decode p (encode p i) = .ok i := by
    rw [he, decode, decodeFrame_opc hp, hb]
  cases i <;> cases hc
  case wren | wrdi | ce | pd | rpd | rsten | rst => exact reads rfl rfl
  case se a => exact reads rfl (decodeAddressed_addrBytes .se .se a)
  case be32 a => exact reads rfl (decodeAddressed_addrBytes .be32 .be32 a)
  case be64 a => exact reads rfl (decodeAddressed_addrBytes .be64 .be64 a)
  case rdsr1 => exact reads rfl (decodeRx_dummies .rdsr1 .rdsr1 1)
  case mfrDevId => exact reads rfl (decodeRx_dummies .mfrDevId .mfrDevId 5)
  case pp a data =>
    exact reads rfl (decodeBody_pp_eq_ok.2 ⟨a, data, rfl, rfl, by simpa [Instr.wf] using hi⟩)
  case read a => exact reads rfl (decodeBody_read_eq_ok.2 ⟨a, rfl, rfl⟩)
  case jedec use =>
    cases use
    · exact reads rfl (decodeBody_jedec_eq_ok.2 (.inl ⟨rfl, rfl⟩))
    · exact reads rfl (decodeBody_jedec_eq_ok.2 (.inr ⟨rfl, rfl⟩))

/-- A well-formed host operation's word is read back (R99, R100). -/
theorem decode_encode_of_request (hi : i.wf p = true) (hc : commandOf i = none) :
    decode p (encode p i) = .ok i := by
  have reads {op hold addr arg} (he : encode p i = .request (requestWord op hold addr arg))
      (hd : instrOfOperands op hold addr arg (csIdLow p arg.toNat) = i) :
      decode p (encode p i) = .ok i := by
    rw [he, decode, decodeRequest_requestWord, hd]
  cases i <;> cases hc
  case init c =>
    simp only [Instr.wf, Bool.and_eq_true, decide_eq_true_eq] at hi
    obtain ⟨hw, harg⟩ := hi
    refine reads rfl (congrArg Instr.init ?_)
    rw [BitVec.toNat_ofNat, Nat.mod_eq_of_lt harg, csIdLow_of_lt hw]
  all_goals exact reads rfl rfl

/-- Settles O1: a wire command is read back from its frame, a host operation from its word. -/
theorem decodeInvertsEncode : Obligations.DecodeInvertsEncode := by
  intro p i hp hi
  cases hc : commandOf i with
  | some op => exact decode_encode_of_command hp hi hc
  | none => exact decode_encode_of_request hi hc

/-- Settles O2: the decoder of each format accepts only the encoder's bytes. -/
theorem encodeInvertsDecodeOfFrames : Obligations.EncodeInvertsDecodeOfFrames := by
  intro p bytes i h
  obtain ⟨op, rest, rfl, hb⟩ := exists_of_decodeFrame_ok h
  exact encode_of_decodeBody hb p

/-- A frame of the default configuration that is an instruction's encoding. -/
theorem decodeFrame_default_of_encode (he : encode .default i = .frame bytes)
    (hi : i.wf .default = true) : decodeFrame .default bytes = .ok i := by
  rw [← decodeInvertsEncode .default i default_wf hi, he, decode]

/-- Settles O6: the words by evaluation, each frame as the encoding of what it stands for. -/
theorem writtenWordsDecode : Obligations.WrittenWordsDecode := by
  have frame {i bytes} := @decodeFrame_default_of_encode i bytes
  exact ⟨rfl, rfl, rfl, rfl, rfl, rfl, rfl, rfl, rfl,
    frame rfl rfl, frame rfl rfl, frame rfl rfl, frame rfl (by simp [Instr.wf]), frame rfl rfl,
    frame rfl rfl, frame rfl rfl, frame rfl rfl, frame rfl rfl, frame rfl rfl, frame rfl rfl,
    frame rfl rfl, frame rfl rfl, frame rfl rfl, frame rfl rfl, frame rfl rfl⟩

theorem wireOpOf_eq_none {b : Byte} (h : ∀ op, p.opc op ≠ b) : wireOpOf p b = none := by
  cases hw : wireOpOf p b with
  | none => rfl
  | some op => exact absurd (opc_of_wireOpOf hw) (h op)

/-- Settles O8: no command has the byte for its opcode. -/
theorem foreignFirstByteRefused : Obligations.ForeignFirstByteRefused := by
  intro s b rest acts hb
  have hd : decodeFrame s.params (b :: rest) = .error (.unknownOpcode b) := by
    simp only [decodeFrame, wireOpOf_eq_none hb]
  exact ⟨hd, fun hs hh => by simp only [step_idle hs, idleStep, hh, hd]⟩

/-- Settles O12: `decode` reads a frame with `decodeFrame`, as the step does. -/
theorem stepRunsDecodedFrame : Obligations.StepRunsDecodedFrame := by
  intro s bytes i rest hs hh hd
  rw [decode] at hd
  simp only [step_idle hs, idleStep, hh, hd]

end Sys2Proof.Machine
end

/-! ## The busy sample and what it turns away -/

section
namespace Sys2Proof.Machine

variable {i : Instr} {op : WireOp} {s : State}

/-- R142: the command is the status sample. -/
theorem exec_rdsr1 (s : State) : exec .rdsr1 s = .next (afterSample s) := by
  rw [exec, execRdsr1, statusBusy_eq]

/-- Settles O16: a status sample is one RDSR1 transaction, and RDSR1 is a status sample. -/
theorem statusReadSamplesBusyBit : Obligations.StatusReadSamplesBusyBit :=
  fun s => ⟨_, s.env.sample s.params, _, _, statusBusy_eq s, exec_rdsr1 s⟩

/-- R126 at a busy sample, whole: the status read, `wstate` BUSY, and no other register written. -/
theorem afterSample_busy (hb : SampleBusy s) :
    ∃ (d b k : Byte) (e : Env), busyBit b = true ∧ afterSample s =
      { s with
        wstate := .busy, csN := true, idx := k, trace := s.trace ++ statusFrame s d b, env := e } := by
  have hbit := (sampleBusy_iff s).mp hb
  exact ⟨_, _, _, _, hbit,
    congrArg (fun b => { afterSample s with wstate := wstateOfSample b }) hbit⟩

theorem wireGuarded_of_not_mem (hop : op ∉ [.rdsr1, .rpd, .rst]) : wireGuarded op = true := by
  revert hop
  cases op <;> decide

/-- R127, R106: at a busy sample a guarded command is the status read alone. -/
theorem exec_command_busy (hi : commandOf i = some op) (hg : wireGuarded op = true)
    (hb : SampleBusy s) : exec i s = .next (afterSample s) := by
  have turnedAway {tx nrx write} : Host.Outcome.next (issueThen op tx nrx write s).2 =
      (.next (afterSample s) : Out) := by rw [issueThen_busy tx nrx write hg hb]
  cases i <;> cases hi
  case rdsr1 | rpd | rst => cases hg
  case jedec use => cases use <;> exact turnedAway
  all_goals exact turnedAway

/-- Settles O22: all guarded commands are turned away in the state that the status read leaves. -/
theorem guardedCommandsStopWhenBusy : Obligations.GuardedCommandsStopWhenBusy := by
  intro s hb
  obtain ⟨d, b, k, e, hbit, hs⟩ := afterSample_busy hb
  exact ⟨d, b, k, e, hbit, fun i op hi hop =>
    hs ▸ exec_command_busy hi (wireGuarded_of_not_mem hop) hb⟩

/-- R127, R194: an erase turned away waits for nothing, held or not. -/
theorem erase_busy (hn : wireNeedsWriteEnable op = true) (tx : List Byte) (code : BitVec 4)
    (hold : Bool) (timeout : Millis) (hb : SampleBusy s) :
    erase op tx code hold timeout s = finish .busy (afterSample s) := by
  simp [erase, mutate_busy hn tx hb]

/-- R203 at a busy sample: no settle delay. -/
theorem powerDown_busy (us : Nat) (hb : SampleBusy s) :
    andThen (pdBody s) (settle us) = (.busy, afterSample s) := by
  rw [pdBody, issueThen_busy _ _ _ rfl hb, andThen_busy]

/-- Settles O23: each operation's body is turned away at its first guard, and `finish` writes BUSY
(R127, R247). -/
theorem guardedRequestsReturnBusy : Obligations.GuardedRequestsReturnBusy := by
  intro s hb
  obtain ⟨d, b, k, e, hbit, hs⟩ := afterSample_busy hb
  refine ⟨d, b, k, e, hbit, fun i hi => ?_⟩
  suffices h : exec i s = .next (finish .busy (afterSample s)) by rw [h, hs, finish]
  have ended {r : Result} (h : r = (.busy, afterSample s)) :
      Host.Outcome.next (finishWith r) = (.next (finish .busy (afterSample s)) : Out) := by
    rw [h, finishWith]
  have erased {op tx code hold timeout} (hn : wireNeedsWriteEnable op = true) :
      Host.Outcome.next (erase op tx code hold timeout s) =
        (.next (finish .busy (afterSample s)) : Out) := by rw [erase_busy hn _ _ _ _ hb]
  simp only [List.mem_cons, List.not_mem_nil, or_false] at hi
  rcases hi with (rfl | rfl | rfl | rfl | rfl) | ⟨a, rfl | rfl⟩ | ⟨a, hold, rfl | rfl | rfl⟩ |
    ⟨hold, rfl⟩
  · exact ended (issueThen_busy _ _ _ rfl hb)
  · exact ended (issueThen_busy _ _ _ rfl hb)
  · exact ended (issueThen_busy _ _ _ rfl hb)
  · exact ended (resetBody_busy hb)
  · exact ended (powerDown_busy _ hb)
  · exact ended (mutate_busy rfl _ hb)
  · exact ended (issueThen_busy _ _ _ rfl hb)
  · exact erased (op := .se) rfl
  · exact erased (op := .be32) rfl
  · exact erased (op := .be64) rfl
  · exact erased (op := .ce) rfl

end Sys2Proof.Machine
end

/-! ## The wire commands that are sent -/

section
namespace Sys2Proof.Machine

variable {op : WireOp} {tx : List Byte} {nrx : Nat} {s t u : State}

/-! ### What a sent command leaves -/

/-- `s` with the `wstate` and the trace that a ready sample leaves (R126). It sets neither `csN`, `idx`
nor the environment: a frame that follows writes them again. -/
def readySampled (s : State) (d b : Byte) : State :=
  { s with wstate := .ready, trace := s.trace ++ statusFrame s d b }

/-- `t` is what `write` makes of `u` and the received bytes after one frame of `op` (R125). -/
def SendsFrame (u : State) (op : WireOp) (tx : List Byte) (nrx : Nat)
    (write : List Byte → State → State) (t : State) : Prop :=
  ∃ (disc rx : List Byte) (k : Byte) (e : Env), disc.length = tx.length + 1 ∧ rx.length = nrx ∧
    t = write rx
      { u with csN := true, idx := k, trace := u.trace ++ wireFrame u op tx disc rx, env := e }

/-- R150, R153: a command without a guard is its frame alone. -/
theorem issueThen_sends_unguarded {write : List Byte → State → State} (hg : wireGuarded op = false) :
    SendsFrame s op tx nrx write (issueThen op tx nrx write s).2 :=
  ⟨_, _, _, _, Env.length_frameDisc .., Env.length_frameRx ..,
    congrArg Prod.snd (issueThen_unguarded tx nrx write hg)⟩

/-- R126: a guarded command is sent with `wstate` READY. -/
theorem issueThen_ready_wstate {write : List Byte → State → State} (hg : wireGuarded op = true)
    (hr : SampleReady s) :
    (issueThen op tx nrx write s).2 =
      write (Env.frameRx s.params (s.params.opc op) tx nrx (s.env.afterSample s.params))
        (afterFrame op tx nrx { afterSample s with wstate := .ready }) := by
  have hw : (afterSample s).wstate = .ready := congrArg wstateOfSample ((sampleReady_iff s).mp hr)
  rw [issueThen_ready tx nrx write hg hr, ← hw]

/-- R127 at a ready sample: every guarded command is the one status read and then its frame. -/
theorem issueThen_sends_guarded (hr : SampleReady s) :
    ∃ (d b : Byte), busyBit b = false ∧ ∀ {op tx nrx write}, wireGuarded op = true →
      SendsFrame (readySampled s d b) op tx nrx write (issueThen op tx nrx write s).2 :=
  ⟨_, _, (sampleReady_iff s).mp hr, fun hg =>
    ⟨_, _, _, _, Env.length_frameDisc .., Env.length_frameRx .., issueThen_ready_wstate hg hr⟩⟩

namespace SendsFrame

variable {write : State → State}

/-- A frame that receives nothing. -/
theorem sendOnly (h : SendsFrame u op tx 0 (fun _ => write) t) {n : Nat} (hn : tx.length + 1 = n) :
    ∃ (disc : List Byte) (k : Byte) (e : Env), disc.length = n ∧ (.next t : Out) = .next (write
      { u with
        csN := true, idx := k, trace := u.trace ++ wireFrame u op tx disc [], env := e }) := by
  obtain ⟨disc, rx, k, e, hdisc, hrx, ht⟩ := h
  obtain rfl := List.length_eq_zero_iff.mp hrx
  exact ⟨disc, k, e, hdisc.trans hn, congrArg _ ht⟩

/-- A frame that is the opcode alone. -/
theorem opcodeOnly (h : SendsFrame u op [] 0 (fun _ => write) t) :
    ∃ (disc k : Byte) (e : Env), (.next t : Out) = .next (write
      { u with
        csN := true, idx := k, trace := u.trace ++ wireFrame u op [] [disc] [], env := e }) := by
  obtain ⟨disc, k, e, hdisc, ht⟩ := h.sendOnly rfl
  obtain ⟨x, rfl⟩ := List.length_eq_one_iff.mp hdisc
  exact ⟨x, k, e, ht⟩

end SendsFrame

/-! ### Received bytes in a buffer -/

theorem toList_ofFn_getD {n : Nat} {l : List Byte} (h : l.length = n) :
    (Vector.ofFn fun i : Fin n => l.getD i.val 0).toList = l := by
  subst h
  exact List.ext_getElem (by simp) fun _ _ _ => by simp

/-- R53: the page buffer holds 256 received bytes in arrival order. -/
theorem toList_pageOfBytes {rx : List Byte} (h : rx.length = pageSize) :
    (pageOfBytes rx).toList = rx := toList_ofFn_getD h

/-- R200: `probe[]` holds five received bytes in arrival order. -/
theorem toList_probeOfBytes {rx : List Byte} (h : rx.length = idProbeLen) :
    (probeOfBytes rx).toList = rx := toList_ofFn_getD h

/-! ### The statements -/

/-- Settles O18: neither command has a guard, so its frame is all that is sent. -/
theorem unguardedCommandsSend : Obligations.UnguardedCommandsSend := fun _ =>
  ⟨(issueThen_sends_unguarded rfl).opcodeOnly, (issueThen_sends_unguarded rfl).opcodeOnly⟩

/-- Settles O17: at a ready sample each of the five is the status read and then the opcode alone. -/
theorem guardedBareCommandsSend : Obligations.GuardedBareCommandsSend := by
  intro s hr
  obtain ⟨d, b, hbit, sends⟩ := issueThen_sends_guarded hr
  exact ⟨d, b, hbit, (sends rfl).opcodeOnly, (sends rfl).opcodeOnly, (sends rfl).opcodeOnly,
    (sends rfl).opcodeOnly, (sends rfl).opcodeOnly⟩

/-- Settles O19: the four frames differ in opcode and argument bytes only. -/
theorem addressedCommandsSend : Obligations.AddressedCommandsSend := by
  intro s a data hr
  obtain ⟨d, b, hbit, sends⟩ := issueThen_sends_guarded hr
  have hpp : (programPayload a data).length + 1 = 4 + data.length := by
    simp only [programPayload, List.length_append, length_addrBytes]
    omega
  exact ⟨d, b, hbit, (sends rfl).sendOnly rfl, (sends rfl).sendOnly rfl, (sends rfl).sendOnly rfl,
    (sends rfl).sendOnly hpp⟩

/-- Settles O20: READ receives exactly the page that the buffer takes. -/
theorem readCommandStoresPage : Obligations.ReadCommandStoresPage := by
  intro s a hr
  obtain ⟨d, b, hbit, sends⟩ := issueThen_sends_guarded hr
  have hread : SendsFrame _ .read (addrBytes a) pageSize _ (readBody a s).2 := sends rfl
  obtain ⟨disc, rx, k, e, hdisc, hrx, h⟩ := hread
  exact ⟨d, b, disc, rx, k, e, pageOfBytes rx, hbit, hdisc, toList_pageOfBytes hrx, congrArg _ h⟩

/-- R151, R154, R200: a five-byte identification read stores what it received in `probe[]`. -/
theorem SendsFrame.storesProbe (h : SendsFrame u op [] idProbeLen
      (fun rx v => { v with probe := probeOfBytes rx }) t) :
    ∃ (disc k : Byte) (five : Vector Byte 5) (e : Env), (.next t : Out) = .next
      { u with
        probe := five, csN := true, idx := k
        trace := u.trace ++ wireFrame u op [] [disc] five.toList, env := e } := by
  obtain ⟨disc, rx, k, e, hdisc, hrx, ht⟩ := h
  obtain ⟨x, rfl⟩ := List.length_eq_one_iff.mp hdisc
  refine ⟨x, k, probeOfBytes rx, e, ?_⟩
  rw [toList_probeOfBytes hrx, ht]

/-- Settles O21: three received bytes go to the id registers, five to `probe[]`. -/
theorem identificationCommandsStore : Obligations.IdentificationCommandsStore := by
  intro s hr
  obtain ⟨d, b, hbit, sends⟩ := issueThen_sends_guarded hr
  refine ⟨d, b, hbit, ?_, (sends rfl).storesProbe, (sends rfl).storesProbe⟩
  have hident : SendsFrame _ .jedec [] jedecLen _ (identBody s).2 := sends rfl
  obtain ⟨disc, rx, k, e, hdisc, hrx, h⟩ := hident
  obtain ⟨x, rfl⟩ := List.length_eq_one_iff.mp hdisc
  obtain ⟨r0, r1, r2, rfl⟩ := List.length_eq_three.mp hrx
  exact ⟨x, k, r0, r1, r2, e, congrArg _ h⟩

end Sys2Proof.Machine
end

/-! ## The write-enable operations and the auto-enable -/

section
namespace Sys2Proof.Machine

variable {op : WireOp} {s : State}

/-- R170, R171: an operation whose body is one guarded command of an opcode alone. Only on OK does it
`write`. -/
theorem finishWith_bareCommand (hg : wireGuarded op = true) (write : State → State) (s : State) :
    ∃ (d b k : Byte) (e : Env),
      (SampleReady s → busyBit b = false ∧ ∃ disc : Byte,
        (.next (finishWith (issueThen op [] 0 (fun _ => write) s)) : Out) = .next (finish .ok (write
          { readySampled s d b with
            csN := true, idx := k
            trace := s.trace ++ statusFrame s d b ++ wireFrame s op [] [disc] [], env := e }))) ∧
      (SampleBusy s → busyBit b = true ∧
        (.next (finishWith (issueThen op [] 0 (fun _ => write) s)) : Out) = .next (finish .busy
          { s with
            wstate := .busy, csN := true, idx := k, trace := s.trace ++ statusFrame s d b
            env := e })) := by
  by_cases hr : SampleReady s
  · obtain ⟨d, b, hbit, sends⟩ := issueThen_sends_guarded hr
    obtain ⟨disc, k, e, hsent⟩ := (sends (write := fun _ => write) hg).opcodeOnly
    have hok : (issueThen op [] 0 (fun _ => write) s).1 = .ok := by
      rw [issueThen_ready _ _ _ hg hr]
    refine ⟨d, b, k, e, fun _ => ⟨hbit, disc, ?_⟩, fun hb => Bool.noConfusion (hr.symm.trans hb)⟩
    rw [finishWith, hok, Host.Outcome.next.inj hsent]
    rfl
  · have hb := sampleBusy_of_not_ready hr
    obtain ⟨d, b, k, e, hbit, hs⟩ := afterSample_busy hb
    refine ⟨d, b, k, e, fun h => absurd h hr, fun _ => ⟨hbit, ?_⟩⟩
    rw [issueThen_busy _ _ _ hg hb, finishWith, hs]

/-- Settles O24: ENABLE_WRITING is WREN alone, whose write is the mirror's 1. -/
theorem enableWritingSetsMirror : Obligations.EnableWritingSetsMirror :=
  finishWith_bareCommand (op := .wren) rfl fun u => { u with welTrack := true }

/-- Settles O25: DISABLE_WRITING is WRDI alone, whose write is the mirror's 0; the mirror is not read. -/
theorem disableWritingClearsMirror : Obligations.DisableWritingClearsMirror :=
  finishWith_bareCommand (op := .wrdi) rfl fun u => { u with welTrack := false }

/-! ### The auto-enable -/

/-- The state that WREN leaves at a ready sample (R140). -/
def afterWren (s : State) : State :=
  { afterFrame .wren [] 0 (afterSample s) with welTrack := true }

theorem wrenBody_ready (hr : SampleReady s) : wrenBody s = (.ok, afterWren s) :=
  issueThen_ready _ _ _ rfl hr

theorem exec_wren_ready (hr : SampleReady s) : exec .wren s = .next (afterWren s) := by
  rw [exec, execWren, wrenBody_ready hr]

section
variable {tx : List Byte} {code : BitVec 4} {hold : Bool} {timeout : Millis}

/-- With the mirror set the shared part of WRITE_PAGE and the erases is their own command (R172). -/
theorem mutate_of_mirror_set (hn : wireNeedsWriteEnable op = true) (hw : s.welTrack = true) :
    mutate op tx s = mutateBody op tx s := by
  rw [mutate, if_pos hn, autoEnable, if_pos hw, andThen_ok]

/-- With the mirror clear and a ready sample it goes on from the state that WREN leaves, in which the
auto-enable has nothing to do (R172). -/
theorem mutate_of_mirror_clear (hn : wireNeedsWriteEnable op = true) (hw : s.welTrack = false)
    (hr : SampleReady s) : mutate op tx s = mutate op tx (afterWren s) := by
  rw [mutate_of_mirror_set (s := afterWren s) hn rfl, mutate, if_pos hn, autoEnable, hw,
    if_neg Bool.false_ne_true, wrenBody_ready hr, andThen_ok]

/-- R172 for an erase: its wait, if held, begins where the shared part ends. -/
theorem erase_of_mirror_clear (hn : wireNeedsWriteEnable op = true) (hw : s.welTrack = false)
    (hr : SampleReady s) :
    erase op tx code hold timeout s = erase op tx code hold timeout (afterWren s) := by
  rw [erase, mutate_of_mirror_clear hn hw hr, ← erase]

end

/-- Settles O26: at a ready sample the auto-enable is the command WREN, which keeps the page buffer and
the timeouts that the operations go on to use; at a busy one the status read is all that happens. -/
theorem autoEnableComesFirst : Obligations.AutoEnableComesFirst := by
  intro s a hold hw
  constructor
  · intro hr
    have enabled {op : WireOp} {tx code timeout} (hn : wireNeedsWriteEnable op = true) :
        Host.Outcome.next (erase op tx code hold timeout s) =
          (.next (erase op tx code hold timeout (afterWren s)) : Out) := by
      rw [erase_of_mirror_clear hn hw hr]
    refine ⟨afterWren s, exec_wren_ready hr, rfl, ?_, enabled (op := .se) rfl,
      enabled (op := .be32) rfl, enabled (op := .be64) rfl, enabled (op := .ce) rfl⟩
    exact congrArg (Host.Outcome.next ∘ finishWith) (mutate_of_mirror_clear (op := .pp) rfl hw hr)
  · intro hb
    have turnedAway {op : WireOp} {tx code timeout} (hn : wireNeedsWriteEnable op = true) :
        Host.Outcome.next (erase op tx code hold timeout s) =
          (.next (finish .busy (afterSample s)) : Out) := by rw [erase_busy hn _ _ _ _ hb]
    refine ⟨afterSample s, exec_rdsr1 s, fun i hi => ?_⟩
    simp only [List.mem_cons, List.not_mem_nil, or_false] at hi
    rcases hi with rfl | rfl | rfl | rfl | rfl
    · exact congrArg (Host.Outcome.next ∘ finishWith) (mutate_busy (op := .pp) rfl _ hb)
    · exact turnedAway (op := .se) rfl
    · exact turnedAway (op := .be32) rfl
    · exact turnedAway (op := .be64) rfl
    · exact turnedAway (op := .ce) rfl

end Sys2Proof.Machine
end

/-! ## The page operations -/

section
namespace Sys2Proof.Machine

variable {op : WireOp} {s t : State} {a : Addr}

/-- An operation that is one guarded command ends with OK at a ready sample (R127). -/
theorem finishWith_issueThen_ready (tx : List Byte) (nrx : Nat) (write : List Byte → State → State)
    (hg : wireGuarded op = true) (hr : SampleReady s) :
    finishWith (issueThen op tx nrx write s) = finish .ok (issueThen op tx nrx write s).2 := by
  rw [finishWith, issueThen_ready _ _ _ hg hr]

/-- Settles O28: with the mirror set WRITE_PAGE is the page program alone, which carries the address
and the buffer. -/
theorem writePageSendsBuffer : Obligations.WritePageSendsBuffer := by
  intro s a hw hr
  obtain ⟨d, b, hbit, sends⟩ := issueThen_sends_guarded hr
  have hprogram : SendsFrame _ .pp (programPayload a s.pb.toList) 0 _
      (mutateBody .pp (programPayload a s.pb.toList) s).2 := sends rfl
  have hlen : (programPayload a s.pb.toList).length + 1 = 260 := by simp [programPayload]
  obtain ⟨disc, k, e, hdisc, hsent⟩ := hprogram.sendOnly hlen
  refine ⟨d, b, disc, k, e, hbit, hdisc, ?_⟩
  rw [exec, execWritePage, mutate_of_mirror_set rfl hw, mutateBody,
    finishWith_issueThen_ready _ _ _ rfl hr, ← mutateBody, Host.Outcome.next.inj hsent]
  rfl

/-- Settles O29: READ_PAGE is the guarded READ, which receives exactly the page that the buffer takes;
at a busy sample it is turned away like every guarded request. -/
theorem readPageFillsBuffer : Obligations.ReadPageFillsBuffer := by
  intro s a
  constructor
  · intro hr
    obtain ⟨d, b, hbit, sends⟩ := issueThen_sends_guarded hr
    have hread : SendsFrame _ .read (addrBytes a) pageSize _ (readBody a s).2 := sends rfl
    obtain ⟨disc, rx, k, e, hdisc, hrx, h⟩ := hread
    refine ⟨d, b, disc, rx, k, e, pageOfBytes rx, hbit, hdisc, toList_pageOfBytes hrx, ?_⟩
    rw [exec, execReadPage, readBody, finishWith_issueThen_ready _ _ _ rfl hr, ← readBody, h]
    rfl
  · intro hb
    obtain ⟨d, b, k, e, hbit, turnedAway⟩ := guardedRequestsReturnBusy s hb
    exact ⟨d, b, k, e, hbit, turnedAway _ (.inr (.inl ⟨a, .inr rfl⟩))⟩

end Sys2Proof.Machine
end

/-! ## What a wait keeps -/

section
namespace Sys2Proof.Machine

variable {P : State → Prop} {s t : State}

/-- A property of the configuration and the environment that status samples and readings of the counter
keep: all that WAIT_UNTIL_FREE does outside the block (R221). -/
structure KeptByPolling (P : State → Prop) : Prop where
  of_eq   : ∀ {s t : State}, P s → t.params = s.params → t.env = s.env → P t
  sample  : ∀ {s}, P s → P (afterSample s)
  reading : ∀ {s}, P s → P (afterReading s)

namespace KeptByPolling

variable (hk : KeptByPolling P)
include hk

theorem waitConfirm (h : P s) : P (waitConfirm s) := by
  have hs := hk.sample (hk.of_eq (t := { s with wstate := .timedOut }) h rfl rfl)
  simp only [Machine.waitConfirm, statusBusy_eq]
  split
  · exact hk.of_eq hs rfl rfl
  · exact hk.of_eq hs rfl rfl

theorem waitPass (op : BitVec 4) (timeout : Millis) (h : P s) : P (waitPass op timeout s) := by
  have hs := hk.sample h
  simp only [Machine.waitPass, statusBusy_eq, nowMs_eq]
  split
  · split
    · exact hk.waitConfirm (hk.reading hs)
    · exact hk.of_eq (hk.reading hs) rfl rfl
  · exact hk.of_eq hs rfl rfl

end KeptByPolling

/-- The first of several steps that all answer a next state. -/
theorem step_of_run_succ {n : Nat} (hr : Host.Core.run Sys2Proof.core (n + 1) s = .next t) :
    ∃ u, step s = .next u ∧ Host.Core.run Sys2Proof.core n u = .next t := by
  simp only [Host.Core.run] at hr
  split at hr
  · rename_i u hs
    exact ⟨u, hs, hr⟩
  · cases hr
  · cases hr

/-- `P` holds, the block is idle or at the head of the wait's loop, and nothing comes from outside. -/
structure PollsWith (P : State → Prop) (s : State) : Prop where
  holds : P s
  alone : s.hostIn = []
  line  : ∀ op, s.phase ≠ .run op .start

namespace PollsWith

variable (hk : KeptByPolling P)
include hk

theorem waitPass (op : BitVec 4) (timeout : Millis) (h : P s) (hh : s.hostIn = []) :
    PollsWith P (waitPass op timeout s) where
  holds := hk.waitPass op timeout h
  alone := (Path.waitPass (i := .busy) op timeout .refl).hostIn.trans hh
  line _ := by rcases waitPass_outcome op timeout s with ⟨hp, -⟩ | ⟨hp, -⟩ <;> simp [hp]

theorem step (h : PollsWith P s) (hs : StepShape s t) : PollsWith P t := by
  cases hs with
  | rest => exact h
  | setPB _ hh | readResult _ hh | hardReset hh | chipPowerCycle hh | request _ hh | frame _ hh =>
    exact absurd (h.alone.symm.trans hh) (List.cons_ne_nil _ _).symm
  | latched hp => exact absurd hp (h.line _)
  | pass => exact waitPass hk _ _ h.holds h.alone

theorem run {n : Nat} (h : PollsWith P s) (hr : Host.Core.run Sys2Proof.core n s = .next t) :
    PollsWith P t := by
  induction n generalizing s with
  | zero => exact Host.Outcome.next.inj hr ▸ h
  | succ n ih =>
    obtain ⟨u, hs, hu⟩ := step_of_run_succ hr
    exact ih (h.step hk (step_shape hs)) hu

end PollsWith

/-- However long a WAIT_UNTIL_FREE polls, it keeps what one sample and one reading keep. -/
theorem EndsIn.waitUntilFree_keeps (hk : KeptByPolling P) {timeout : Millis}
    (he : EndsIn (Machine.exec (.waitUntilFree timeout) s) t) (h : P s) (hh : s.hostIn = []) :
    P t := by
  obtain ⟨u, n, hu, hr, -⟩ := he
  obtain rfl := Host.Outcome.next.inj hu
  have hn : P { (nowMs s).2 with t0 := (nowMs s).1 } := hk.of_eq (hk.reading h) rfl rfl
  exact ((PollsWith.waitPass hk 0xB timeout hn hh).run hk hr).holds

end Sys2Proof.Machine
end

/-! ## The round trip of a page -/

section
namespace Sys2Proof.Machine

variable {p : Params} {s t : State} {a : Addr} {data : List Byte} {m : Memory}

/-- A program of an erased page stores the data itself (R75). -/
theorem Memory.read_program_erased {x k : Nat} (hm : m.wf = true) (he : m.pageErased x)
    (page : PageBuffer) (hk : k < 256) : (m.program x page.toList).read (x + k) = page[k] := by
  have hin : x ≤ x + k ∧ x + k < x + page.toList.length := by simp [hk]
  have hand : (0xFF : Byte) &&& page[k] = page[k] := BitVec.allOnes_and
  rw [Memory.read_program _ _ _ hm, if_pos hin, he k hk, Nat.add_sub_cancel_left]
  simpa [List.getD_eq_getElem?_getD, hk] using hand

/-- In configuration `p` REFCHIP is attached and awake, with the array `m`. -/
structure AwakeWith (p : Params) (m : Memory) (s : State) : Prop where
  params   : s.params = p
  attached : s.env.bus = .refChip
  awake    : s.env.chip.pd = false
  mem      : s.env.chip.mem = m

namespace AwakeWith

theorem of_eq (h : AwakeWith p m s) (hp : t.params = s.params) (he : t.env = s.env) :
    AwakeWith p m t := ⟨hp.trans h.params, he ▸ h.attached, he ▸ h.awake, he ▸ h.mem⟩

theorem keptByPolling (hp : p.wf = true) : KeptByPolling (AwakeWith p m) where
  of_eq := of_eq
  sample h := by
    obtain ⟨-, hb, hc⟩ := statusBusy_awake (h.params.symm ▸ hp) h.attached h.awake
    exact ⟨h.params, hb, hc ▸ h.awake, hc ▸ h.mem⟩
  reading h := ⟨h.params, h.attached, h.awake, h.mem⟩

/-- A READ_PAGE that returns OK fills the page buffer from the array (R76, R181). -/
theorem readPage (h : AwakeWith p m s) (hp : p.wf = true) (ha : refPageOk p a = true)
    (he : exec (.readPage a) s = .next t) (hok : t.rspStatus = .ok) {k : Nat} (hk : k < 256) :
    t.pb[k] = m.read (a.toNat + k) := by
  obtain rfl := Host.Outcome.next.inj he
  obtain ⟨rfl, hbus, hpd, rfl⟩ := h
  have hready : SampleReady s := by
    by_contra hn
    have hb : (readBody a s).1 = .busy :=
      congrArg Prod.fst (issueThen_busy _ _ _ rfl (sampleBusy_of_not_ready hn))
    cases hb.symm.trans hok
  have hidle : s.env.chip.busyLeft.isBusy = false := (sampleReady_ref hp hbus hpd).1 hready
  have hfree : s.env.chip.busyLeft = .samples 0 := by
    simpa [hidle] using s.env.chip.busyLeft.isBusy_iff
  exact RefReady.readBody_pb ⟨hbus, hpd, hfree⟩ hp ha hk

end AwakeWith

namespace RefReady

/-- WREN sets a ready chip's latch (R74). -/
theorem afterWren_chip (hr : RefReady s) (hp : s.params.wf = true) :
    (afterWren s).env.bus = .refChip ∧
      (afterWren s).env.chip = { s.env.chip.disarmed with wel := true } := by
  have h : (wrenBody s).2.env.bus = .refChip ∧
      (wrenBody s).2.env.chip = { s.env.chip.disarmed with wel := true } :=
    hr.issueThen hp rfl rfl rfl fun _ _ => rfl
  rwa [wrenBody_ready (hr.sampleReady hp)] at h

/-- The page program at a ready chip whose latch is set (R75). -/
theorem programPage (hr : RefReady s) (hp : s.params.wf = true) (hwel : s.env.chip.wel = true)
    (ha : refPageOk s.params a = true) (hlen : data.length = 256) :
    AwakeWith s.params (s.env.chip.mem.program a.toNat data)
      (Machine.mutateBody .pp (programPayload a data) s).2 := by
  have hl : refLengthOk .pp (programPayload a data).length = true := by
    simp [refLengthOk, programPayload, hlen, wireArgLength]
  have hact : refAct s.params s.env.chip.disarmed .pp (programPayload a data) =
      some (refProgram s.env.chip.disarmed a data) := by
    simp only [refAct, programPayload, refArgAddr_addrBytes, ha, drop_addrBytes, if_true]
  obtain ⟨hb, hc⟩ := hr.mutateBody hp rfl hl hact
  rw [refProgram, if_pos hwel] at hc
  exact ⟨(Path.mutateBody .refl (.pp a data)).params, hb, hc ▸ hr.awake, congrArg RefChip.mem hc⟩

/-- WRITE_PAGE at a ready chip whose latch is set wherever the mirror is: the buffer is programmed, the
operation's own WREN having set the latch where the mirror was clear (R172, R180). -/
theorem writePage (hr : RefReady s) (hp : s.params.wf = true)
    (hwel : s.welTrack = true → s.env.chip.wel = true) (ha : refPageOk s.params a = true)
    (he : exec (.writePage a) s = .next t) :
    AwakeWith s.params (s.env.chip.mem.program a.toNat s.pb.toList) t := by
  obtain rfl := Host.Outcome.next.inj he
  suffices h : AwakeWith s.params (s.env.chip.mem.program a.toNat s.pb.toList)
      (mutate .pp (programPayload a s.pb.toList) s).2 from h.of_eq rfl rfl
  have hlen : s.pb.toList.length = 256 := s.pb.length_toList
  cases hw : s.welTrack with
  | true =>
    rw [mutate_of_mirror_set rfl hw]
    exact hr.programPage hp (hwel hw) ha hlen
  | false =>
    obtain ⟨hb, hc⟩ := hr.afterWren_chip hp
    have hr' : RefReady (afterWren s) :=
      ⟨hb, (congrArg RefChip.pd hc).trans hr.awake, (congrArg RefChip.busyLeft hc).trans hr.free⟩
    have hmem : (afterWren s).env.chip.mem = s.env.chip.mem := by rw [hc]
    rw [mutate_of_mirror_clear rfl hw (hr.sampleReady hp), mutate_of_mirror_set rfl rfl, ← hmem]
    exact hr'.programPage hp (congrArg RefChip.wel hc) ha hlen

end RefReady

/-- Settles O60: the write leaves an awake chip whose array has the page programmed, the wait keeps
that, and a READ_PAGE that returns OK reads it. -/
theorem pageRoundTrip : Obligations.PageRoundTrip := by
  intro s s1 s2 s3 a timeout between hp hr hhost hm hwel halign hcap herased hwrite _ hwait _ hread hok
  have hpage := refPageOk_of halign hcap
  have hwritten := hr.writePage hp hwel hpage hwrite
  have hhost1 : s1.hostIn = [] := (exec_path hwrite).hostIn.trans hhost
  have hwaited := hwait.waitUntilFree_keeps (AwakeWith.keptByPolling hp) hwritten hhost1
  have hbetween : AwakeWith _ _ { s2 with pb := between } := hwaited.of_eq rfl rfl
  refine Vector.ext fun k hk => ?_
  rw [hbetween.readPage hp hpage hread hok hk, Memory.read_program_erased hm herased s.pb hk]

end Sys2Proof.Machine
end

/-! ## The erases that are sent -/

section
namespace Sys2Proof.Machine

variable {op : WireOp} {tx : List Byte} {s t u : State}

/-- A write `f` of the block after the frame can be taken into `write`. -/
theorem SendsFrame.map {nrx : Nat} {write : List Byte → State → State}
    (h : SendsFrame u op tx nrx write t) (f : State → State) :
    SendsFrame u op tx nrx (fun rx v => f (write rx v)) (f t) := by
  obtain ⟨disc, rx, k, e, hdisc, hrx, ht⟩ := h
  exact ⟨disc, rx, k, e, hdisc, hrx, congrArg f ht⟩

/-- The program or erase command at a ready sample clears the mirror (R143, R145 to R148). -/
theorem mutateBody_ready (hn : wireNeedsWriteEnable op = true) (tx : List Byte) (hr : SampleReady s) :
    mutateBody op tx s =
      (.ok, { afterFrame op tx 0 (afterSample s) with welTrack := false }) :=
  issueThen_ready _ _ _ (guarded_of_needsWriteEnable hn) hr

/-- R194 with the mirror set and a ready sample: the command, then the wait if held, else OK. -/
theorem erase_sent (hn : wireNeedsWriteEnable op = true) (hw : s.welTrack = true)
    (hr : SampleReady s) (tx : List Byte) (code : BitVec 4) (hold : Bool) (timeout : Millis) :
    erase op tx code hold timeout s =
      if hold then waitBegin code timeout (mutateBody op tx s).2
      else finish .ok (mutateBody op tx s).2 := by
  have hok : (mutateBody op tx s).1 = .ok := by rw [mutateBody_ready hn tx hr]
  simp only [erase, mutate_of_mirror_set hn hw, if_pos hok]

/-- Settles O30: with nothing to enable and nothing to wait for, an erase is its guarded command and the
end with OK. -/
theorem eraseWithoutHoldReturns : Obligations.EraseWithoutHoldReturns := by
  intro s a hw hr
  obtain ⟨d, b, hbit, sends⟩ := issueThen_sends_guarded hr
  have erased {op tx code timeout} (hn : wireNeedsWriteEnable op = true) :
      SendsFrame (readySampled s d b) op tx 0
        (fun _ v => finish .ok { v with welTrack := false })
        (erase op tx code false timeout s) := by
    rw [erase_sent hn hw hr]
    exact (sends (guarded_of_needsWriteEnable hn)).map (finish .ok)
  exact ⟨d, b, hbit, (erased rfl).sendOnly rfl, (erased rfl).sendOnly rfl,
    (erased rfl).sendOnly rfl, (erased rfl).opcodeOnly⟩

/-! ### The wait of a held erase -/

theorem waitConfirm_phase (s : State) : (waitConfirm s).phase = .idle := by
  simp only [waitConfirm]
  split
  · rfl
  · rfl

/-- R221: a pass depends on the operation only in the phase that it keeps while it waits. -/
theorem waitPass_of_code (code code' : BitVec 4) (timeout : Millis) (s : State) :
    waitPass code timeout s =
      if (waitPass code' timeout s).phase = .idle then waitPass code' timeout s
      else { waitPass code' timeout s with phase := .run code (.poll timeout) } := by
  simp only [waitPass]
  split
  · split
    · rw [if_pos (waitConfirm_phase _)]
    · rw [if_neg Phase.noConfusion]
  · rw [if_pos (finish_phase ..)]

/-- R194, R195 with `hold = 1`: the command `c`, then WAIT_UNTIL_FREE but for the op code that the phase
keeps. -/
theorem exec_held_erase {i c : Instr} {code : BitVec 4} {timeout : Millis}
    (hn : wireNeedsWriteEnable op = true) (hw : s.welTrack = true) (hr : SampleReady s)
    (hi : exec i s = .next (erase op tx code true timeout s))
    (hc : exec c s = .next (mutateBody op tx s).2) :
    ∃ s1 t, exec c s = .next s1 ∧ s1.welTrack = false ∧ exec (.waitUntilFree timeout) s1 = .next t ∧
      exec i s = .next
        (if t.phase = .idle then t else { t with phase := .run code (.poll timeout) }) := by
  have hmirror : (mutateBody op tx s).2.welTrack = false := by rw [mutateBody_ready hn tx hr]
  refine ⟨_, waitBegin 0xB timeout (mutateBody op tx s).2, hc, hmirror, rfl, ?_⟩
  rw [hi, erase_sent hn hw hr, if_pos rfl, waitBegin, waitPass_of_code code 0xB, ← waitBegin]

/-- Settles O31: each row pairs a held erase with its command, its op code and its timeout (R195). -/
theorem eraseWithHoldWaits : Obligations.EraseWithHoldWaits := by
  intro s a hw hr i c code timeout hmem
  simp only [List.mem_cons, List.not_mem_nil, or_false, Prod.mk.injEq] at hmem
  rcases hmem with ⟨rfl, rfl, rfl, rfl⟩ | ⟨rfl, rfl, rfl, rfl⟩ | ⟨rfl, rfl, rfl, rfl⟩ |
    ⟨rfl, rfl, rfl, rfl⟩
  · exact exec_held_erase (op := .se) rfl hw hr rfl rfl
  · exact exec_held_erase (op := .be32) rfl hw hr rfl rfl
  · exact exec_held_erase (op := .be64) rfl hw hr rfl rfl
  · exact exec_held_erase (op := .ce) rfl hw hr rfl rfl

end Sys2Proof.Machine
end

/-! ## Identification and the lifecycle operations -/

section
namespace Sys2Proof.Machine

variable {i : Instr} {op : WireOp} {s t u : State}

/-- The two outcomes of a guarded request share their witnesses: `Q` says what a ready sample gives, and
a busy one turns the request away (R127, R247). -/
theorem ready_or_turnedAway {Q : Byte → Byte → Byte → Env → Prop}
    (hi : i ∈ [.enableWriting, .disableWriting, .getJedec, .reset, .powerDown])
    (hsent : SampleReady s → ∃ (d b k : Byte) (e : Env), busyBit b = false ∧ Q d b k e) :
    ∃ (d b k : Byte) (e : Env), (SampleReady s → busyBit b = false ∧ Q d b k e) ∧
      (SampleBusy s → busyBit b = true ∧ exec i s = .next
        { s with
          wstate := .busy, csN := true, idx := k, rspStatus := .busy, rspValid := true
          phase := .idle, trace := s.trace ++ statusFrame s d b, env := e }) := by
  by_cases hr : SampleReady s
  · obtain ⟨d, b, k, e, hq⟩ := hsent hr
    exact ⟨d, b, k, e, fun _ => hq, fun hb => Bool.noConfusion (hr.symm.trans hb)⟩
  · obtain ⟨d, b, k, e, hbit, turnedAway⟩ := guardedRequestsReturnBusy s (sampleBusy_of_not_ready hr)
    exact ⟨d, b, k, e, fun h => absurd h hr, fun _ => ⟨hbit, turnedAway i (.inl hi)⟩⟩

theorem issues_of_ready (hg : wireGuarded op = true) (hr : SampleReady s) : issues op s = true := by
  rw [issues_of_guarded hg, hr, Bool.not_false]

/-- The body of a command that is sent answers OK and the state that the command leaves. -/
theorem issueThen_of_sent {tx : List Byte} {nrx : Nat} {write : List Byte → State → State}
    (hi : issues op s = true) (h : (.next (issueThen op tx nrx write s).2 : Out) = .next t) :
    issueThen op tx nrx write s = (.ok, t) :=
  Prod.ext ((issueThen_status ..).trans (if_pos hi)) (Host.Outcome.next.inj h)

/-! ### GET_JEDEC, POWER_DOWN, RELEASE_POWER_DOWN: one command -/

/-- R201: GET_JEDEC at a ready sample is the command JEDEC and the end with OK. -/
theorem exec_getJedec_of_sent (hr : SampleReady s) (h : exec (.jedec .ident) s = .next t) :
    exec .getJedec s = .next (finish .ok t) := by
  have hident : identBody s = (.ok, t) := issueThen_of_sent (issues_of_ready rfl hr) h
  rw [exec, execGetJedec, hident, finishWith]

/-- R203: POWER_DOWN at a ready sample is the command PD, the settle delay and the end with OK. -/
theorem exec_powerDown_of_sent (hr : SampleReady s) (h : exec .pd s = .next t) :
    exec .powerDown s = .next (finish .ok (delayUs s.params.tPdSettleUs t)) := by
  have hpd : pdBody s = (.ok, t) := issueThen_of_sent (issues_of_ready rfl hr) h
  rw [exec, execPowerDown, hpd, andThen_ok, settle, finishWith]

/-- R204: RELEASE_POWER_DOWN is the command RPD, the settle delay and the end with OK. -/
theorem exec_releasePowerDown_of_sent (h : exec .rpd s = .next t) :
    exec .releasePowerDown s = .next (finish .ok (delayUs s.params.tPdSettleUs t)) := by
  have hrpd : rpdBody s = (.ok, t) := issueThen_of_sent rfl h
  rw [exec, execReleasePowerDown, hrpd, andThen_ok, settle, finishWith]

/-- Settles O32: the command JEDEC stores the three bytes, and a busy sample turns it away. -/
theorem getJedecReportsBytesInOrder : Obligations.GetJedecReportsBytesInOrder := by
  refine fun s => ready_or_turnedAway (by simp) fun hr => ?_
  obtain ⟨d, b, hbit, ⟨disc, k, r0, r1, r2, e, hsent⟩, -⟩ := identificationCommandsStore s hr
  exact ⟨d, b, k, e, hbit, disc, r0, r1, r2, exec_getJedec_of_sent hr hsent⟩

/-- Settles O35: the delay comes after the frame of PD, and a busy sample turns both away. -/
theorem powerDownSettlesOnlyWhenSent : Obligations.PowerDownSettlesOnlyWhenSent := by
  refine fun s => ready_or_turnedAway (by simp) fun hr => ?_
  obtain ⟨d, b, hbit, -, -, -, ⟨disc, k, e, hsent⟩, -⟩ := guardedBareCommandsSend s hr
  exact ⟨d, b, k, e, hbit, disc, exec_powerDown_of_sent hr hsent⟩

/-- Settles O36: RPD is sent in every state, since it has no guard. -/
theorem releasePowerDownIsUnconditional : Obligations.ReleasePowerDownIsUnconditional := by
  intro s
  obtain ⟨⟨disc, k, e, hsent⟩, -⟩ := unguardedCommandsSend s
  exact ⟨disc, k, e, exec_releasePowerDown_of_sent hsent⟩

/-! ### RESET: the contiguous pair -/

/-- R202: RESET at a ready sample is the command RSTEN, the command RST from the state that it leaves,
the settle delay and the end with OK. -/
theorem exec_reset_of_pair (hr : SampleReady s) (hrsten : exec .rsten s = .next t)
    (hrst : exec .rst t = .next u) :
    exec .reset s = .next (finish .ok (delayUs s.params.tRstSettleUs u)) := by
  have harmed : rstenBody s = (.ok, t) := issueThen_of_sent (issues_of_ready rfl hr) hrsten
  have hreset : rstBody t = (.ok, u) := issueThen_of_sent rfl hrst
  rw [exec, execReset, resetBody, harmed, andThen_ok, hreset, andThen_ok, settle, finishWith]

/-- Settles O34: RST has no guard, so its frame comes directly after RSTEN's. -/
theorem resetPairIsContiguous : Obligations.ResetPairIsContiguous := by
  refine fun s => ready_or_turnedAway (by simp) fun hr => ?_
  obtain ⟨d, b, hbit, -, -, -, -, disc, _, _, hrsten⟩ := guardedBareCommandsSend s hr
  obtain ⟨-, disc', k, e, hrst⟩ := unguardedCommandsSend _
  exact ⟨d, b, k, e, hbit, disc, disc', exec_reset_of_pair hr hrsten hrst⟩

/-! ### INIT: the probe, then RESET -/

/-- R106: either identification read of R200 has a guard. -/
theorem wireGuarded_wireOp (p : ProbeOp) : wireGuarded p.wireOp = true := by cases p <;> rfl

/-- What INIT writes first has no effect on its busy sample (R200). -/
theorem sample_initConfigure (c : CsId) (s : State) :
    (statusBusy (initConfigure c s)).1 = (statusBusy s).1 := by
  simp only [statusBusy_eq, initConfigure_env, initConfigure_params]

/-- R200 at a busy sample: the configuration, then the status read alone. -/
theorem initBody_busy (c : CsId) (hb : SampleBusy s) :
    initBody c s = (.busy, afterSample (initConfigure c s)) := by
  have hb' : SampleBusy (initConfigure c s) := (sample_initConfigure c s).trans hb
  rw [initBody, probeBody, issueThen_busy _ _ _ (wireGuarded_wireOp _) hb', andThen_busy]

/-- R200 at a ready sample: the probe keeps what INIT wrote before it. -/
theorem probeBody_initConfigure (p : ProbeOp) (c : CsId) (hr : SampleReady s) :
    ∃ u, probeBody p.wireOp (initConfigure c s) = (.ok, u) ∧ u.csId = csIdLow s.params c ∧
      u.busCfg = busConstants s.params ∧ u.welTrack = false := by
  have hr' : SampleReady (initConfigure c s) := (sample_initConfigure c s).trans hr
  exact ⟨_, issueThen_ready _ _ _ (wireGuarded_wireOp p) hr', rfl, rfl, rfl⟩

theorem initAfterProbe_of_zero (h : s.probe[4] = 0x00) :
    initAfterProbe s = (.communicationFail, s) := if_pos (beq_iff_eq.mpr h)

theorem initAfterProbe_of_ne_zero (h : s.probe[4] ≠ 0x00) : initAfterProbe s = resetBody s :=
  if_neg (mt beq_iff_eq.mp h)

/-- Settles O33: INIT is its configuration, the configured probe and then, by the fifth byte, the failure
or RESET, which at a ready sample returns OK and keeps the configuration (O34). -/
theorem initProbesThenResets : Obligations.InitProbesThenResets := by
  intro s c s1 probeCmd
  refine ⟨csIdLow_of_lt, fun hb => ⟨_, exec_rdsr1 _, ?_⟩, fun hr => ?_⟩
  · exact congrArg (Host.Outcome.next ∘ finishWith) (initBody_busy c hb)
  obtain ⟨s2, hprobe, hcs, hcfg, hmirror⟩ := probeBody_initConfigure s.params.idProbe c hr
  have hcmd : exec probeCmd s1 = .next (probeBody s.params.idProbe.wireOp (initConfigure c s)).2 := by
    unfold probeCmd
    cases s.params.idProbe <;> rfl
  have hinit : initBody c s = initAfterProbe s2 := by rw [initBody, hprobe, andThen_ok]
  refine ⟨s2, hcmd.trans (by rw [hprobe]), hcs, hmirror, fun h0 => ?_, fun h0 => ?_⟩
  · rw [exec, execInit, hinit, initAfterProbe_of_zero h0, finishWith, finish]
  · have hreset : exec (.init c) s = exec .reset s2 := by
      rw [exec, execInit, hinit, initAfterProbe_of_ne_zero h0, ← execReset, ← exec]
    refine ⟨hreset, fun hr2 => ?_⟩
    obtain ⟨d, b, k, e, hsent, -⟩ := resetPairIsContiguous s2
    obtain ⟨-, disc, disc', hok⟩ := hsent hr2
    exact ⟨_, hreset.trans hok, rfl, hcs, hcfg, rfl, rfl⟩

end Sys2Proof.Machine
end

/-! ## BUSY, the reserved op code and the wait -/

section
namespace Sys2Proof.Machine

variable {op : BitVec 4} {timeout : Millis} {s t u : State} {c0 : Nat}

/-- Settles O38: the operation is its end. -/
theorem reservedOpReturnsNotValid : Obligations.ReservedOpReturnsNotValid := fun _ => rfl

/-- R220: BUSY is one status sample, its bit into `rsp_busy`, and the end with OK. -/
theorem exec_busy (s : State) :
    exec .busy s = .next (finish .ok
      { afterSample s with rspBusy := busyBit (s.env.sample s.params), rspBusyKnown := true }) := by
  rw [exec, execBusy, statusBusy_eq]

/-- Settles O37: the sample that BUSY stores is the byte that the status read carries. -/
theorem busyReportsSample : Obligations.BusyReportsSample := fun s => ⟨_, _, _, _, exec_busy s⟩

/-! ### One pass of the loop -/

/-- The reading that a pass makes after a busy sample is past the deadline (R221). -/
abbrev PastDeadline (timeout : Millis) (s : State) : Prop :=
  timeout < (nowMs (afterSample s)).1 - s.t0

/-- The head of the loop again, after a busy sample in time (R221). -/
def pollAgain (op : BitVec 4) (timeout : Millis) (s : State) : State :=
  { delayUs s.params.pollDelayUs (nowMs (afterSample s)).2 with phase := .run op (.poll timeout) }

theorem waitPass_ready (op : BitVec 4) (timeout : Millis) (hr : SampleReady s) :
    waitPass op timeout s = finish .ok (afterSample s) := by
  rw [sampleReady_iff] at hr
  simp only [waitPass, statusBusy_eq, hr, Bool.false_eq_true, if_false]

theorem waitPass_inTime (op : BitVec 4) (hb : SampleBusy s) (hd : ¬ PastDeadline timeout s) :
    waitPass op timeout s = pollAgain op timeout s := by
  have hd' : ¬ deadlinePassed (nowMs (afterSample s)).1 s.t0 timeout = true :=
    mt of_decide_eq_true hd
  rw [sampleBusy_iff] at hb
  simp only [waitPass, statusBusy_eq, hb, if_true]
  exact if_neg hd'

theorem waitPass_pastDeadline (op : BitVec 4) (hb : SampleBusy s) (hd : PastDeadline timeout s) :
    waitPass op timeout s = waitConfirm (nowMs (afterSample s)).2 := by
  have hd' : deadlinePassed (nowMs (afterSample s)).1 s.t0 timeout = true := decide_eq_true hd
  rw [sampleBusy_iff] at hb
  simp only [waitPass, statusBusy_eq, hb, if_true]
  exact if_pos hd'

theorem waitConfirm_ready (hr : SampleReady s) : waitConfirm s = finish .ok (afterSample s) := by
  rw [sampleReady_iff] at hr
  simp only [waitConfirm, statusBusy_eq, hr, Bool.false_eq_true, if_false]
  rfl

theorem waitConfirm_busy (hb : SampleBusy s) :
    waitConfirm s = finish .timeout { afterSample s with wstate := .timedOut } := by
  rw [sampleBusy_iff] at hb
  simp only [waitConfirm, statusBusy_eq, hb, if_true]
  rfl

/-- Only a busy sample in time goes on with the wait. -/
theorem busy_inTime_of_not_idle (hp : (waitPass op timeout s).phase ≠ .idle) :
    SampleBusy s ∧ ¬ PastDeadline timeout s := by
  by_cases hr : SampleReady s
  · exact absurd (by rw [waitPass_ready op timeout hr, finish_phase]) hp
  have hb := sampleBusy_of_not_ready hr
  exact ⟨hb, fun hd => hp (by rw [waitPass_pastDeadline op hb hd, waitConfirm_phase])⟩

/-- Settles O40: the three branches of a pass and the two of its confirmatory sample. -/
theorem waitLoopPass : Obligations.WaitLoopPass := by
  intro s s1 op timeout hp hh he
  obtain rfl := Host.Outcome.next.inj ((exec_rdsr1 s).symm.trans he)
  rw [step_run hp hh, runStep]
  refine ⟨fun hr => ?_, fun hb => ⟨fun hin => ?_, fun hlate =>
    ⟨_, exec_rdsr1 _, fun hr => ?_, fun hb' => ?_⟩⟩⟩
  · rw [waitPass_ready op timeout hr, finish]
  · rw [waitPass_inTime op hb hin, pollAgain, ← hp]
    rfl
  · rw [waitPass_pastDeadline op hb hlate, waitConfirm_ready hr, finish]
  · rw [waitPass_pastDeadline op hb hlate, waitConfirm_busy hb', finish]

/-- R126 at a ready sample, whole: the status read, `wstate` READY, no other register written. -/
theorem afterSample_ready (hr : SampleReady s) :
    ∃ (d b k : Byte) (e : Env), busyBit b = false ∧ afterSample s =
      { s with
        wstate := .ready, csN := true, idx := k, trace := s.trace ++ statusFrame s d b
        env := e } := by
  have hbit := (sampleReady_iff s).mp hr
  exact ⟨_, _, _, _, hbit,
    congrArg (fun b => { afterSample s with wstate := wstateOfSample b }) hbit⟩

/-- Where the loop of a wait is entered (R221): `t0` holds the reading. -/
def waitEntry (s : State) : State := { (nowMs s).2 with t0 := (nowMs s).1 }

/-- The reading at the start takes one scripted advance. -/
theorem waitEntry_msIn (s : State) : (waitEntry s).env.msIn = s.env.msIn.drop 1 := rfl

/-- The write of `t0` does not change what the sample reads. -/
theorem sampleReady_waitEntry (hr : SampleReady (nowMs s).2) : SampleReady (waitEntry s) := by
  rw [sampleReady_iff] at hr ⊢
  exact hr

theorem exec_waitUntilFree (timeout : Millis) (s : State) :
    exec (.waitUntilFree timeout) s = .next (waitPass 0xB timeout (waitEntry s)) := rfl

/-- Settles O39: the first pass is at the loop's entry, and at a ready sample it ends the wait. -/
theorem waitReturnsAtReadySample : Obligations.WaitReturnsAtReadySample := by
  refine fun s timeout => ⟨rfl, fun hr => ?_⟩
  have hr' := sampleReady_waitEntry hr
  obtain ⟨d, b, k, e, hbit, hs⟩ := afterSample_ready hr'
  refine ⟨d, b, k, e, hbit, ?_⟩
  rw [exec_waitUntilFree, waitPass_ready _ _ hr', hs]
  rfl

end Sys2Proof.Machine
end

/-! ## How long a wait lasts -/

section
namespace Sys2Proof.Machine

variable {op : BitVec 4} {timeout : Millis} {s t u : State} {c0 : Nat}

/-! ### Steps of a wait that nothing interrupts -/

/-- In the loop, with nothing presented, a step is a pass. -/
theorem step_poll (hp : s.phase = .run op (.poll timeout)) (hh : s.hostIn = []) :
    step s = .next (waitPass op timeout s) := step_run hp (by simp [hh])

theorem run_succ_of_step {n : Nat} (hs : step s = .next u) :
    Host.Core.run Sys2Proof.core (n + 1) s = Host.Core.run Sys2Proof.core n u := by
  have hs' : Sys2Proof.core.step s = .next u := hs
  simp only [Host.Core.run, hs']

/-- What every step keeps, every run keeps. -/
theorem run_keeps {P : State → Prop} (hstep : ∀ s t, P s → step s = .next t → P t) {n : Nat}
    (hr : Host.Core.run Sys2Proof.core n s = .next t) (h : P s) : P t := by
  induction n generalizing s with
  | zero => exact Host.Outcome.next.inj hr ▸ h
  | succ n ih =>
    obtain ⟨u, hs, hu⟩ := step_of_run_succ hr
    exact ih hu (hstep s u h hs)

/-! ### Elapsed time -/

/-- A wait whose start was read at the true count `c0`, with nothing to come from the host. -/
structure WaitsSince (c0 : Nat) (s : State) : Prop where
  alone : s.hostIn = []
  start : s.t0 = readingOf c0
  count : c0 ≤ s.env.msCount

namespace WaitsSince

theorem entry (hh : s.hostIn = []) : WaitsSince (nowMs s).2.env.msCount (waitEntry s) :=
  ⟨hh, rfl, le_rfl⟩

theorem waitPass (h : WaitsSince c0 s) (op : BitVec 4) (timeout : Millis) :
    WaitsSince c0 (waitPass op timeout s) := by
  have hp : Path .busy s (Machine.waitPass op timeout s) := .waitPass op timeout .refl
  have hk := hostSide_blind.waitPass (fun _ _ => rfl) (fun _ _ => rfl) (fun _ _ => rfl) op timeout s
  simp only [hostSide, Prod.mk.injEq] at hk
  obtain ⟨hhost, -, -, -, -, -, -, ht0⟩ := hk
  exact ⟨hhost.trans h.alone, ht0.trans h.start, h.count.trans (Appends.path hp).msCount⟩

/-- The count that a pass reads has not gone back. -/
theorem count_le (h : WaitsSince c0 s) : c0 ≤ (nowMs (afterSample s)).2.env.msCount :=
  h.count.trans ((Appends.sample s).trans (Appends.reading _)).msCount

/-- The elapsed time that a pass computes, whatever wraps (R255, R256 (a)). -/
theorem toNat_elapsed (h : WaitsSince c0 s) :
    ((nowMs (afterSample s)).1 - s.t0).toNat =
      ((nowMs (afterSample s)).2.env.msCount - c0) % 2 ^ 32 := by
  have hc := h.count_le
  have hread : (nowMs (afterSample s)).1.toNat = (nowMs (afterSample s)).2.env.msCount % 2 ^ 32 :=
    BitVec.toNat_ofNat ..
  rw [BitVec.toNat_sub, hread, h.start, readingOf, BitVec.toNat_ofNat]
  omega

/-- R223: the modular difference is never more than the true one. -/
theorem lt_of_pastDeadline (h : WaitsSince c0 s) (hd : PastDeadline timeout s) :
    c0 + timeout.toNat < (nowMs (afterSample s)).2.env.msCount := by
  have hc := h.count_le
  rw [PastDeadline, BitVec.lt_def, h.toNat_elapsed] at hd
  omega

/-- R223 for one pass: only past the deadline does it end with TIMEOUT. -/
theorem lt_of_timeout (h : WaitsSince c0 s) (hidle : (Machine.waitPass op timeout s).phase = .idle)
    (ht : (Machine.waitPass op timeout s).rspStatus = .timeout) :
    c0 + timeout.toNat < (Machine.waitPass op timeout s).env.msCount := by
  by_cases hr : SampleReady s
  · rw [waitPass_ready op timeout hr] at ht
    cases ht
  have hb := sampleBusy_of_not_ready hr
  by_cases hd : PastDeadline timeout s
  · have hp : Path .busy (nowMs (afterSample s)).2 (waitConfirm (nowMs (afterSample s)).2) :=
      .waitConfirm .refl
    rw [waitPass_pastDeadline op hb hd]
    exact (h.lt_of_pastDeadline hd).trans_le (Appends.path hp).msCount
  · rw [waitPass_inTime op hb hd] at hidle
    cases hidle

end WaitsSince

/-! ### TIMEOUT is never early -/

/-- Where an operation with a wait since `c0` stands between two steps: in the loop, or ended, with
TIMEOUT only if the count is past the deadline. -/
inductive NeverEarly (c0 : Nat) (timeout : Millis) (s : State) : Prop
  | waiting {op : BitVec 4} (hp : s.phase = .run op (.poll timeout)) (hw : WaitsSince c0 s)
  | ended (hh : s.hostIn = []) (hp : s.phase = .idle)
      (ht : s.rspStatus = .timeout → c0 + timeout.toNat < s.env.msCount)

namespace NeverEarly

theorem waitPass (h : WaitsSince c0 s) (op : BitVec 4) (timeout : Millis) :
    NeverEarly c0 timeout (waitPass op timeout s) := by
  rcases waitPass_outcome op timeout s with ⟨hp, -⟩ | ⟨hp, -⟩
  · exact .waiting hp (h.waitPass op timeout)
  · exact .ended (h.waitPass op timeout).alone hp (h.lt_of_timeout hp)

theorem step (h : NeverEarly c0 timeout s) (hs : step s = .next t) : NeverEarly c0 timeout t := by
  cases h with
  | waiting hp hw =>
    obtain rfl := Host.Outcome.next.inj ((step_poll hp hw.alone).symm.trans hs)
    exact waitPass hw _ timeout
  | ended hh hp ht =>
    obtain ⟨hrest, -⟩ := idleBlockWaitsForHost s hp
    obtain rfl := Host.Outcome.next.inj ((hrest hh).symm.trans hs)
    exact .ended hh hp ht

/-- R223 for an operation, however many passes it takes. -/
theorem endsIn (h : NeverEarly c0 timeout s) (he : EndsIn (.next s) t)
    (ht : t.rspStatus = .timeout) : c0 + timeout.toNat < t.env.msCount := by
  obtain ⟨u, n, hu, hr, hidle⟩ := he
  obtain rfl := Host.Outcome.next.inj hu
  cases run_keeps (fun _ _ => step) hr h with
  | waiting hp => cases hidle.symm.trans hp
  | ended _ _ hlate => exact hlate ht

end NeverEarly

/-! ### The wait of a held erase begins after its command -/

section
variable {wop : WireOp} {tx : List Byte} {code : BitVec 4} {s0 s1 : State}

theorem mutateBody_hostIn (wop : WireOp) (tx : List Byte) (s : State) :
    (mutateBody wop tx s).2.hostIn = s.hostIn :=
  congrArg Prod.fst (hostSide_blind.issueThen (write := fun _ u => { u with welTrack := false })
    fun _ _ => rfl)

/-- The shared part of WRITE_PAGE and the erases is turned away, or it is sent: the command in `s0`,
which is `s` itself or, if the mirror is clear, what WREN leaves (R172). -/
theorem mutate_turnedAway_or_sent (hn : wireNeedsWriteEnable wop = true) (tx : List Byte)
    (h0 : if s.welTrack = true then s0 = s else exec .wren s = .next s0) :
    mutate wop tx s = (.busy, afterSample s) ∨
      s0.hostIn = s.hostIn ∧ mutate wop tx s = mutateBody wop tx s0 := by
  cases hw : s.welTrack with
  | true =>
    obtain rfl : s0 = s := by simpa [hw] using h0
    exact .inr ⟨rfl, mutate_of_mirror_set hn hw⟩
  | false =>
    by_cases hr : SampleReady s
    · have hwren : exec .wren s = .next s0 := by simpa [hw] using h0
      obtain rfl := Host.Outcome.next.inj ((exec_wren_ready hr).symm.trans hwren)
      exact .inr ⟨rfl, (mutate_of_mirror_clear hn hw hr).trans (mutate_of_mirror_set hn rfl)⟩
    · exact .inl (mutate_busy hn tx (sampleBusy_of_not_ready hr))

/-- An erase whose command is not sent ends with BUSY and does not wait. -/
theorem NeverEarly.turnedAway (hm : (mutate wop tx s).1 = .busy)
    (hh : (mutate wop tx s).2.hostIn = []) :
    NeverEarly c0 timeout (erase wop tx code true timeout s) := by
  have he : erase wop tx code true timeout s = finish .busy (mutate wop tx s).2 := by
    simp [erase, hm]
  rw [he]
  exact .ended hh rfl Status.noConfusion

theorem NeverEarly.erase (hn : wireNeedsWriteEnable wop = true) (hh : s.hostIn = [])
    (h0 : if s.welTrack = true then s0 = s else exec .wren s = .next s0) :
    NeverEarly (nowMs (mutateBody wop tx s0).2).2.env.msCount timeout
      (erase wop tx code true timeout s) := by
  rcases mutate_turnedAway_or_sent hn tx h0 with hm | ⟨hh0, hm⟩
  · exact turnedAway (congrArg Prod.fst hm) (hm ▸ hh)
  have hhost : (mutateBody wop tx s0).2.hostIn = [] :=
    (mutateBody_hostIn wop tx s0).trans (hh0.trans hh)
  have hstatus : (mutateBody wop tx s0).1 = if issues wop s0 then .ok else .busy :=
    issueThen_status ..
  by_cases hi : issues wop s0 = true
  · rw [if_pos hi] at hstatus
    rw [Machine.erase, hm, if_pos hstatus, if_pos rfl]
    exact waitPass (.entry hhost) code timeout
  · rw [if_neg hi] at hstatus
    exact turnedAway (hm ▸ hstatus) (hm ▸ hhost)

end

/-- Settles O48: whether the operation is a wait from its start or a held erase, `NeverEarly` holds
of the state that its first step leaves. -/
theorem timeoutIsNeverEarly : Obligations.TimeoutIsNeverEarly := by
  constructor
  · intro s t timeout hh he ht
    exact (NeverEarly.waitPass (.entry hh) 0xB timeout).endsIn he ht
  · intro s s0 s1 t a i c timeout hh hmem h0 hc he ht
    have held {wop : WireOp} {tx : List Byte} {code : BitVec 4}
        (hn : wireNeedsWriteEnable wop = true)
        (hc : (.next (mutateBody wop tx s0).2 : Out) = .next s1)
        (he : EndsIn (.next (erase wop tx code true timeout s)) t) :
        (nowMs s1).2.env.msCount + timeout.toNat < t.env.msCount := by
      obtain rfl := Host.Outcome.next.inj hc
      exact (NeverEarly.erase hn hh h0).endsIn he ht
    simp only [List.mem_cons, List.not_mem_nil, or_false, Prod.mk.injEq] at hmem
    rcases hmem with ⟨rfl, rfl, rfl⟩ | ⟨rfl, rfl, rfl⟩ | ⟨rfl, rfl, rfl⟩ | ⟨rfl, rfl, rfl⟩
    · exact held (wop := .se) rfl hc he
    · exact held (wop := .be32) rfl hc he
    · exact held (wop := .be64) rfl hc he
    · exact held (wop := .ce) rfl hc he

/-! ### Scripted advances -/

section
variable {a n : Nat} {l : List Nat}

/-- A pass that reads the counter takes the next scripted advance; the sample before it takes
none. -/
theorem reading_of_msIn_cons (hm : s.env.msIn = a :: l) :
    (nowMs (afterSample s)).2.env.msIn = l ∧
      (nowMs (afterSample s)).2.env.msCount = s.env.msCount + a := by
  have hin : (afterSample s).env.msIn = a :: l := (Env.frameEnd_msIn ..).trans hm
  have hcount : (afterSample s).env.msCount = s.env.msCount := Env.frameEnd_msCount ..
  simp only [nowMs_eq, afterReading, Env.afterReading, Env.drawAdvance, hin, hcount,
    List.drop_succ_cons, List.drop_zero, and_self]

theorem waitPass_inTime_advance (op : BitVec 4) (hb : SampleBusy s) (hd : ¬ PastDeadline timeout s)
    (hm : s.env.msIn = a :: l) :
    (waitPass op timeout s).env.msIn = l ∧
      (waitPass op timeout s).env.msCount = s.env.msCount + a := by
  rw [waitPass_inTime op hb hd]
  exact reading_of_msIn_cons hm

/-- While nothing wraps, the deadline passes when the true count does. -/
theorem WaitsSince.pastDeadline_iff (h : WaitsSince c0 s) (hm : s.env.msIn = a :: l)
    (hwrap : s.env.msCount + a < c0 + 2 ^ 32) :
    PastDeadline timeout s ↔ c0 + timeout.toNat < s.env.msCount + a := by
  have hc := h.count
  rw [PastDeadline, BitVec.lt_def, h.toNat_elapsed, (reading_of_msIn_cons hm).2]
  omega

theorem EndsIn.of_step (he : EndsIn (step s) t) : EndsIn (.next s) t := by
  obtain ⟨u, n, hs, hr, hp⟩ := he
  exact ⟨s, n + 1, rfl, (run_succ_of_step hs).trans hr, hp⟩

/-- R224, by induction on a number `n` of advances that are left: each pass that goes on has moved
the true count at least one nearer to the deadline, and none moves it so far past the deadline that
the reading wraps. -/
theorem WaitsSince.ends (op : BitVec 4) (h : WaitsSince c0 s)
    (hadv : ∀ a ∈ s.env.msIn, 1 ≤ a ∧ a + timeout.toNat < 2 ^ 32)
    (hin : s.env.msCount ≤ c0 + timeout.toNat) (hn : n ≤ s.env.msIn.length)
    (hlast : c0 + timeout.toNat < s.env.msCount + n) :
    ∃ t, EndsIn (.next (Machine.waitPass op timeout s)) t ∧ t.rspStatus ∈ [.ok, .timeout] := by
  induction n generalizing s with
  | zero => omega
  | succ n ih =>
    have hkept := h.waitPass op timeout
    rcases waitPass_outcome op timeout s with ⟨hp, -⟩ | ⟨hp, hst⟩
    · obtain ⟨hb, hd⟩ := busy_inTime_of_not_idle (by rw [hp]; exact Phase.noConfusion)
      obtain ⟨a, l, hm⟩ := List.exists_cons_of_length_pos (Nat.zero_lt_of_lt hn)
      obtain ⟨⟨ha, hsmall⟩, hadv'⟩ := List.forall_mem_cons.mp (hm ▸ hadv)
      have hin' := mt (h.pastDeadline_iff hm (by omega)).mpr hd
      obtain ⟨hl, hcount⟩ := waitPass_inTime_advance op hb hd hm
      rw [hm, List.length_cons] at hn
      obtain ⟨t, he, hst⟩ := ih hkept (hl ▸ hadv') (by omega) (by rw [hl]; omega) (by omega)
      exact ⟨t, EndsIn.of_step (step_poll hp hkept.alone ▸ he), hst⟩
    · exact ⟨_, ⟨_, 0, rfl, rfl, hp⟩, by simpa using hst⟩

/-- Settles O49: the reading at the start leaves one advance more than the timeout. -/
theorem waitEndsWhenTimeAdvances : Obligations.WaitEndsWhenTimeAdvances := by
  intro s timeout hh hlen hadv
  have hleft : timeout.toNat + 1 ≤ (waitEntry s).env.msIn.length := by
    rw [waitEntry_msIn, List.length_drop]
    omega
  exact (WaitsSince.entry hh).ends 0xB (fun a ha => hadv a (List.mem_of_mem_drop ha))
    (Nat.le_add_right ..) hleft (Nat.lt_succ_self _)

/-! ### The frozen counter -/

/-- In a legal configuration an awake REFCHIP is attached and busy for ever (R71). -/
structure AlwaysBusy (s : State) : Prop where
  legal    : s.params.wf = true
  attached : s.env.bus = .refChip
  awake    : s.env.chip.pd = false
  busy     : s.env.chip.busyLeft = .forever

namespace AlwaysBusy

theorem of_eq (h : AlwaysBusy s) (hp : t.params = s.params) (he : t.env = s.env) : AlwaysBusy t :=
  ⟨hp ▸ h.legal, he ▸ h.attached, he ▸ h.awake, he ▸ h.busy⟩

theorem keptByPolling : KeptByPolling AlwaysBusy where
  of_eq := of_eq
  sample h := by
    obtain ⟨-, hb, hc⟩ := statusBusy_awake h.legal h.attached h.awake
    refine ⟨h.legal, hb, hc ▸ h.awake, hc ▸ ?_⟩
    simp [h.busy, BusyLeft.afterSample]
  reading h := ⟨h.legal, h.attached, h.awake, h.busy⟩

theorem sampleBusy (h : AlwaysBusy s) : SampleBusy s :=
  sampleBusy_of_not_ready fun hr => by
    simpa [h.busy, BusyLeft.isBusy] using (sampleReady_ref h.legal h.attached h.awake).mp hr

end AlwaysBusy

/-- A wait against an always-busy chip that began at the present count, before `n` or more readings
with no advance. -/
structure Frozen (n : Nat) (s : State) : Prop where
  chip  : AlwaysBusy s
  waits : WaitsSince s.env.msCount s
  left  : n ≤ s.env.msIn.length
  still : ∀ a ∈ s.env.msIn, a = 0

namespace Frozen

/-- A pass finds nothing changed: its sample is busy and no time has passed. -/
theorem waitPass (op : BitVec 4) (timeout : Millis) (h : Frozen (n + 1) s) :
    (waitPass op timeout s).phase = .run op (.poll timeout) ∧ Frozen n (waitPass op timeout s) := by
  obtain ⟨a, l, hm⟩ := List.exists_cons_of_length_pos (Nat.zero_lt_of_lt h.left)
  obtain ⟨rfl, hstill⟩ := List.forall_mem_cons.mp (hm ▸ h.still)
  have hb := h.chip.sampleBusy
  have hd : ¬ PastDeadline timeout s := by
    rw [h.waits.pastDeadline_iff hm (by omega)]
    omega
  obtain ⟨hl, hcount⟩ := waitPass_inTime_advance op hb hd hm
  have hleft := h.left
  rw [hm, List.length_cons] at hleft
  exact ⟨by rw [waitPass_inTime op hb hd]; rfl,
    { chip := AlwaysBusy.keptByPolling.waitPass op timeout h.chip
      waits := hcount.symm ▸ h.waits.waitPass op timeout
      left := by rw [hl]; omega
      still := hl ▸ hstill }⟩

theorem run (op : BitVec 4) (timeout : Millis) (h : Frozen (n + 1) s) :
    ∃ t, Host.Core.run Sys2Proof.core n (Machine.waitPass op timeout s) = .next t ∧
      t.phase = .run op (.poll timeout) := by
  induction n generalizing s with
  | zero => exact ⟨_, rfl, (h.waitPass op timeout).1⟩
  | succ n ih =>
    obtain ⟨hp, hpass⟩ := h.waitPass op timeout
    obtain ⟨t, hr, ht⟩ := ih hpass
    exact ⟨t, (run_succ_of_step (step_poll hp hpass.waits.alone)).trans hr, ht⟩

end Frozen

end

/-- Settles O50: the reading at the start leaves a `Frozen` wait, and every pass keeps one. -/
theorem frozenWaitNeverEnds : Obligations.FrozenWaitNeverEnds := by
  intro s timeout n hp hh hb hpd hbusy hlen hzero
  have hleft : n + 1 ≤ (waitEntry s).env.msIn.length := by
    rw [waitEntry_msIn, List.length_drop]
    omega
  have hfrozen : Frozen (n + 1) (waitEntry s) :=
    ⟨⟨hp, hb, hpd, hbusy⟩, .entry hh, hleft, fun a ha => hzero a (List.mem_of_mem_drop ha)⟩
  obtain ⟨t, hr, ht⟩ := hfrozen.run 0xB timeout
  exact ⟨_, t, exec_waitUntilFree timeout s, hr, ht⟩

end Sys2Proof.Machine
end

/-! ## The counter and its readings -/

section
namespace Sys2Proof.Machine

/-- Settles O46: a reading is `readingOf` the count it leaves, and two of them differ modulo 2^32. -/
theorem counterReadsTrueCount : Obligations.CounterReadsTrueCount :=
  ⟨fun s => ⟨(Appends.reading s).msCount, BitVec.toNat_ofNat .., rfl⟩, elapsed_readingOf⟩

end Sys2Proof.Machine
end

/-! ## Which operation can return which status -/

section
namespace Sys2Proof.Machine

/-! ### The status of a body -/

section
variable {l : List Status} (hok : .ok ∈ l) (hbusy : .busy ∈ l)

theorem andThen_status_mem {r : Result} {k : State → Result} (hr : r.1 ∈ l)
    (hk : ∀ u, (k u).1 ∈ l) : (andThen r k).1 ∈ l := by
  unfold andThen
  split
  · exact hk _
  · exact hr

include hok hbusy

/-- R127: OK or BUSY, whatever the command. -/
theorem issueThen_status_mem (op : WireOp) (tx : List Byte) (nrx : Nat)
    (write : List Byte → State → State) (s : State) : (issueThen op tx nrx write s).1 ∈ l := by
  rw [issueThen_status]
  split
  · exact hok
  · exact hbusy

theorem autoEnable_status_mem (s : State) : (autoEnable s).1 ∈ l := by
  unfold autoEnable
  split
  · exact hok
  · exact issueThen_status_mem hok hbusy ..

theorem mutate_status_mem (op : WireOp) (tx : List Byte) (s : State) : (mutate op tx s).1 ∈ l := by
  refine andThen_status_mem ?_ fun _ => issueThen_status_mem hok hbusy ..
  split
  · exact autoEnable_status_mem hok hbusy s
  · exact hok

theorem resetBody_status_mem (s : State) : (resetBody s).1 ∈ l :=
  andThen_status_mem
    (andThen_status_mem (issueThen_status_mem hok hbusy ..) fun _ => issueThen_status_mem hok hbusy ..)
    fun _ => hok

theorem powerDown_status_mem (us : Nat) (s : State) : (andThen (pdBody s) (settle us)).1 ∈ l :=
  andThen_status_mem (issueThen_status_mem hok hbusy ..) fun _ => hok

/-- R200: the test on the probe's fifth byte adds COMMUNICATION_FAIL. -/
theorem initBody_status_mem (hfail : .communicationFail ∈ l) (c : CsId) (s : State) :
    (initBody c s).1 ∈ l := by
  refine andThen_status_mem (issueThen_status_mem hok hbusy ..) fun u => ?_
  unfold initAfterProbe
  split
  · exact hfail
  · exact resetBody_status_mem hok hbusy u

end

/-! ### The status of an operation that has ended -/

variable {i : Instr} {op : BitVec 4} {timeout : Millis} {s t u : State}

/-- A block that is idle, with nothing to come from the host, stays as it is. -/
theorem run_idle {n : Nat} (hr : Host.Core.run Sys2Proof.core n u = .next t)
    (hp : u.phase = .idle) (hh : u.hostIn = []) : t = u := by
  obtain ⟨hrest, -⟩ := idleBlockWaitsForHost u hp
  refine run_keeps (P := (· = u)) ?_ hr rfl
  rintro _ v rfl hs
  exact (Host.Outcome.next.inj ((hrest hh).symm.trans hs)).symm

/-- R13: an operation that its first step ends has the status it ends with. -/
theorem EndsIn.status_of_finish {st : Status} (he : EndsIn (exec i s) t)
    (hx : exec i s = .next (finish st u)) (hh : s.hostIn = []) : t.rspStatus = st := by
  have hhost : (finish st u).hostIn = [] := (exec_path hx).hostIn.trans hh
  obtain ⟨v, n, hv, hr, -⟩ := he
  obtain rfl := Host.Outcome.next.inj (hx.symm.trans hv)
  rw [run_idle hr rfl hhost]
  rfl

/-- R221, by induction on the number of steps: while a pass goes on, the next step is a pass. -/
theorem run_waitPass_status {n : Nat} (hh : (waitPass op timeout s).hostIn = [])
    (hr : Host.Core.run Sys2Proof.core n (waitPass op timeout s) = .next t)
    (hidle : t.phase = .idle) : t.rspStatus = .ok ∨ t.rspStatus = .timeout := by
  induction n generalizing s with
  | zero =>
    obtain rfl := Host.Outcome.next.inj hr
    rcases waitPass_outcome op timeout s with ⟨hp, -⟩ | ⟨-, hst⟩
    · cases hp.symm.trans hidle
    · exact hst
  | succ n ih =>
    rcases waitPass_outcome op timeout s with ⟨hp, -⟩ | ⟨hp, hst⟩
    · rw [run_succ_of_step (step_poll hp hh)] at hr
      exact ih ((Path.waitPass (i := .busy) op timeout .refl).hostIn.trans hh) hr
    · rwa [run_idle hr hp hh]

/-- R221: an operation whose first step is, or ends with, a pass of the wait. -/
theorem EndsIn.status_of_wait (he : EndsIn (exec i s) t)
    (hx : exec i s = .next (waitPass op timeout u)) (hh : s.hostIn = []) :
    t.rspStatus = .ok ∨ t.rspStatus = .timeout := by
  have hhost : (waitPass op timeout u).hostIn = [] := (exec_path hx).hostIn.trans hh
  obtain ⟨_, n, hv, hr, hidle⟩ := he
  obtain rfl := Host.Outcome.next.inj (hx.symm.trans hv)
  exact run_waitPass_status hhost hr hidle

/-- R194: an erase ends with the status of its command or, if it is held, goes on to the wait. -/
theorem erase_waits_or_finishes (wop : WireOp) (tx : List Byte) (code : BitVec 4) (hold : Bool)
    (timeout : Millis) (s : State) :
    (hold = true ∧ ∃ u, erase wop tx code hold timeout s = waitPass code timeout u) ∨
      erase wop tx code hold timeout s = finish (mutate wop tx s).1 (mutate wop tx s).2 := by
  by_cases hok : (mutate wop tx s).1 = .ok
  · cases hold with
    | true =>
      refine .inl ⟨rfl, waitEntry (mutate wop tx s).2, ?_⟩
      rw [erase, if_pos hok, if_pos rfl]
      rfl
    | false => exact .inr (by rw [erase, if_pos hok, if_neg Bool.false_ne_true, hok])
  · exact .inr (by rw [erase, if_neg hok])

/-- R241, the rows of the erases: BUSY comes from the command, TIMEOUT from the wait. -/
theorem EndsIn.status_of_erase {wop : WireOp} {tx : List Byte} {code : BitVec 4} {hold : Bool}
    (he : EndsIn (exec i s) t) (hx : exec i s = .next (erase wop tx code hold timeout s))
    (hh : s.hostIn = []) :
    t.rspStatus ∈ if hold then [.ok, .busy, .timeout] else [.ok, .busy] := by
  rcases erase_waits_or_finishes wop tx code hold timeout s with ⟨rfl, u, hw⟩ | hf
  · rcases he.status_of_wait (hx.trans (congrArg _ hw)) hh with hst | hst <;> simp [hst]
  · rw [he.status_of_finish (hx.trans (congrArg _ hf)) hh]
    exact mutate_status_mem (by cases hold <;> simp) (by cases hold <;> simp) wop tx s

/-- Settles O41: each operation ends with its body's status, but for the waits; a body's status is that
of one guarded command after another. -/
theorem statusMatrix : Obligations.StatusMatrix := by
  refine ⟨rfl, rfl, fun i s t hh hi he => ?_⟩
  have hok : Status.ok ∈ [.ok, .busy] := by decide
  have hbusy : Status.busy ∈ [.ok, .busy] := by decide
  have ended {st : Status} {u : State} {l : List Status} (hst : st ∈ l)
      (hx : exec i s = .next (finish st u)) : t.rspStatus ∈ l := he.status_of_finish hx hh ▸ hst
  cases i
  case init c => exact ended (initBody_status_mem (by decide) (by decide) (by decide) c s) rfl
  case eraseSector hold | eraseBlock32 hold | eraseBlock64 hold | eraseChip hold =>
    cases hold <;> exact he.status_of_erase rfl hh
  case busy => exact he.status_of_finish (exec_busy s) hh
  case releasePowerDown => exact he.status_of_finish (exec_releasePowerDown_of_sent rfl) hh
  case waitUntilFree timeout =>
    simpa using he.status_of_wait (exec_waitUntilFree timeout s) hh
  case reservedF => exact he.status_of_finish rfl hh
  case enableWriting | disableWriting | readPage | getJedec =>
    exact ended (issueThen_status_mem hok hbusy ..) rfl
  case writePage => exact ended (mutate_status_mem hok hbusy ..) rfl
  case reset => exact ended (resetBody_status_mem hok hbusy s) rfl
  case powerDown => exact ended (powerDown_status_mem hok hbusy _ s) rfl
  all_goals exact absurd rfl hi

end Sys2Proof.Machine
end

/-! ## A busy guard after the auto-enable, and a mirror out of step -/

section
namespace Sys2Proof.Machine

variable {s : State} {a : Addr}

/-- Settles O27: the auto-enable goes on from the state that WREN leaves (O26), in which the mirror is
set, and there the second guard turns each of the five operations away (O23). -/
theorem busyAfterAutoEnableKeepsMirror : Obligations.BusyAfterAutoEnableKeepsMirror := by
  intro s s1 a hold hw hr hwren hb
  obtain ⟨t, ht, -, hpage, hsector, hblock32, hblock64, hchip⟩ :=
    (autoEnableComesFirst s a hold hw).1 hr
  obtain rfl := Host.Outcome.next.inj (ht.symm.trans hwren)
  obtain ⟨d, b, hbit, ⟨disc, k, e, hsent⟩, -⟩ := guardedBareCommandsSend s hr
  obtain rfl := Host.Outcome.next.inj (hsent.symm.trans ht)
  obtain ⟨d', b', k', e', hbit', turnedAway⟩ := guardedRequestsReturnBusy _ hb
  refine ⟨d, b, d', b', disc, k', e', hbit, hbit', fun i hi => ?_⟩
  simp only [List.mem_cons, List.not_mem_nil, or_false] at hi
  rcases hi with rfl | rfl | rfl | rfl | rfl
  · exact hpage.trans (turnedAway _ (.inr (.inl ⟨a, .inl rfl⟩)))
  · exact hsector.trans (turnedAway _ (.inr (.inr (.inl ⟨a, hold, .inl rfl⟩))))
  · exact hblock32.trans (turnedAway _ (.inr (.inr (.inl ⟨a, hold, .inr (.inl rfl)⟩))))
  · exact hblock64.trans (turnedAway _ (.inr (.inr (.inl ⟨a, hold, .inr (.inr rfl)⟩))))
  · exact hchip.trans (turnedAway _ (.inr (.inr (.inr ⟨hold, rfl⟩))))

/-- What the page program makes of a ready chip, whatever its latch (R75). -/
theorem RefReady.program_chip (hr : RefReady s) (hp : s.params.wf = true)
    (ha : refPageOk s.params a = true) {data : List Byte} (hlen : data.length = 256) :
    (Machine.mutateBody .pp (programPayload a data) s).2.env.chip =
      refProgram s.env.chip.disarmed a data := by
  have hl : refLengthOk .pp (programPayload a data).length = true := by
    simp [refLengthOk, programPayload, hlen, wireArgLength]
  refine (hr.mutateBody hp rfl hl ?_).2
  simp only [refAct, programPayload, refArgAddr_addrBytes, ha, drop_addrBytes, if_true]

/-- WRITE_PAGE with the mirror set and a ready sample: the page program and the end with OK (R180). -/
theorem exec_writePage_sent (hw : s.welTrack = true) (hr : SampleReady s) (a : Addr) :
    exec (.writePage a) s =
      .next (finish .ok (mutateBody .pp (programPayload a s.pb.toList) s).2) := by
  rw [exec, execWritePage, mutate_of_mirror_set rfl hw, mutateBody,
    finishWith_issueThen_ready _ _ _ rfl hr]

/-- Settles O59: the mirror has WRITE_PAGE send its program and no WREN, and with its latch clear the
chip ignores it. -/
theorem desyncedMirrorLosesWrite : Obligations.DesyncedMirrorLosesWrite := by
  intro s a hp hr hw hlatch halign hcap
  have hready := hr.sampleReady hp
  have hprogram := hr.program_chip hp (refPageOk_of halign hcap) s.pb.length_toList
  have hignored := hprogram.trans (if_neg (by simp [hlatch]))
  obtain ⟨hmem, -, hfree⟩ := hr.ignored hlatch hignored
  refine ⟨_, exec_writePage_sent hw hready a, rfl, ?_, hmem, hfree⟩
  rw [finish_welTrack, mutateBody_ready rfl _ hready]

end Sys2Proof.Machine
end

/-! ## An absent chip -/

section
namespace Sys2Proof.Machine

variable {p : Params} {e : Env} {b : Byte} {m n : Nat} {op : WireOp} {i : Instr} {s t : State}

/-! ### A line that reads one byte only -/

/-- The device is unconstrained, and its scripted answers, at least `n` of them, are all `b`: what the
input line reads with no chip attached (R287). -/
structure Env.LineReads (b : Byte) (n : Nat) (e : Env) : Prop where
  device : e.bus = .anyDevice
  enough : n ≤ e.busIn.length
  all    : ∀ x ∈ e.busIn, x = b

namespace Env.LineReads

theorem mono (h : e.LineReads b m) (hn : n ≤ m) : e.LineReads b n :=
  ⟨h.device, hn.trans h.enough, h.all⟩

theorem reading (h : e.LineReads b n) : e.afterReading.LineReads b n := ⟨h.device, h.enough, h.all⟩

/-- One exchange uses up one answer. -/
theorem exchange (h : e.LineReads b (n + 1)) (out : Byte) :
    e.answer p = b ∧ (e.exchange p out).LineReads b n := by
  obtain ⟨hd, hn, hall⟩ := h
  obtain ⟨x, l, hl⟩ := List.exists_cons_of_length_pos (Nat.zero_lt_of_lt hn)
  rw [hl] at hn hall
  obtain ⟨rfl, hall⟩ := List.forall_mem_cons.mp hall
  simp only [Env.answer, Env.exchange, hd, Env.drawByte, Env.afterByte, hl]
  exact ⟨trivial, rfl, Nat.le_of_succ_le_succ hn, hall⟩

theorem exchanges (bs : List Byte) (h : e.LineReads b (n + bs.length)) :
    Env.answers p bs e = List.replicate bs.length b ∧ (Env.exchanges p bs e).LineReads b n := by
  induction bs generalizing e with
  | nil => exact ⟨rfl, h⟩
  | cons out bs ih =>
    obtain ⟨hans, hrest⟩ := h.exchange (p := p) out
    obtain ⟨hanss, hend⟩ := ih hrest
    exact ⟨by rw [Env.answers, hans, hanss]; rfl, hend⟩

/-- A frame receives nothing but `b`, and uses up one answer for each of its bytes (R125). -/
theorem frame (h : e.LineReads b m) {opc : Byte} {tx : List Byte} {nrx : Nat}
    (hm : n + nrx + (tx.length + 1) ≤ m) :
    Env.frameRx p opc tx nrx e = List.replicate nrx b ∧
      (Env.frameEnd p opc tx nrx e).LineReads b n := by
  have hsel : e.select = e := by simp only [Env.select, h.device]
  obtain ⟨-, hsent⟩ := exchanges (p := p) (opc :: tx) (h.mono hm)
  obtain ⟨hrx, hopen⟩ := exchanges (p := p) (dummies nrx) (by rwa [length_dummies])
  rw [length_dummies] at hrx
  rw [Env.frameRx, Env.frameEnd, Env.frameOpen, Env.deselect, hsel]
  simp only [hopen.device]
  exact ⟨hrx, hopen⟩

theorem sample (h : e.LineReads b (n + 2)) :
    e.sample p = b ∧ (e.afterSample p).LineReads b n := by
  obtain ⟨hrx, hend⟩ := h.frame (n := n) (p := p) (opc := p.opcRdsr1) (tx := []) (nrx := 1) le_rfl
  exact ⟨by rw [Env.sample, hrx]; rfl, hend⟩

/-! ### All zeros: every sample is ready -/

theorem sampleReady (h : s.env.LineReads 0x00 (n + 2)) : SampleReady s := by
  rw [sampleReady_iff, h.sample.1]
  rfl

/-- A guarded command is sent, and receives zeros. -/
theorem issueThen (h : s.env.LineReads 0x00 m) (hg : wireGuarded op = true) {tx : List Byte}
    {nrx : Nat} {write : List Byte → State → State} (hm : nrx + (tx.length + 1) + 2 ≤ m) :
    Machine.issueThen op tx nrx write s =
      (.ok, write (List.replicate nrx 0x00) (afterFrame op tx nrx (Machine.afterSample s))) := by
  have hs := (h.mono hm).sample (p := s.params)
  rw [issueThen_ready _ _ _ hg (h.mono hm).sampleReady, (hs.2.frame (n := 0) (by omega)).1]

theorem mutateBody (h : s.env.LineReads 0x00 m) (hn : wireNeedsWriteEnable op = true)
    {tx : List Byte} (hm : n + (tx.length + 1) + 2 ≤ m) :
    (mutateBody op tx s).1 = .ok ∧ (mutateBody op tx s).2.env.LineReads 0x00 n := by
  have hs := (h.mono hm).sample (p := s.params)
  rw [mutateBody_ready hn tx (h.mono hm).sampleReady]
  exact ⟨rfl, (hs.2.frame le_rfl).2⟩

/-- The shared part of WRITE_PAGE and the erases is sent, after a WREN of its own or without one
(R172). It uses up the two answers of a sample and the one of WREN before those of its own sample and
frame. -/
theorem mutate (h : s.env.LineReads 0x00 m) (hn : wireNeedsWriteEnable op = true)
    {tx : List Byte} (hm : n + (tx.length + 1) + 2 + 1 + 2 ≤ m) :
    (mutate op tx s).1 = .ok ∧ (mutate op tx s).2.env.LineReads 0x00 n := by
  have hs := (h.mono hm).sample (p := s.params)
  cases hw : s.welTrack with
  | true =>
    rw [mutate_of_mirror_set hn hw]
    exact h.mutateBody hn (by omega)
  | false =>
    have hwren : (afterWren s).env.LineReads 0x00 (n + (tx.length + 1) + 2) :=
      (hs.2.frame (tx := []) (nrx := 0) le_rfl).2
    rw [mutate_of_mirror_clear hn hw (h.mono hm).sampleReady, mutate_of_mirror_set hn rfl]
    exact hwren.mutateBody hn le_rfl

/-- A wait that begins here ends with its first pass. -/
theorem waitBegin (h : s.env.LineReads 0x00 (n + 2)) (code : BitVec 4) (timeout : Millis) :
    ∃ u, waitBegin code timeout s = finish .ok u :=
  ⟨_, waitPass_ready code timeout (s := waitEntry s) h.reading.sampleReady⟩

/-- An erase ends with OK, held or not (R194). -/
theorem erase (h : s.env.LineReads 0x00 m) (hn : wireNeedsWriteEnable op = true) {tx : List Byte}
    (hm : 2 + (tx.length + 1) + 2 + 1 + 2 ≤ m) (code : BitVec 4) (hold : Bool) (timeout : Millis) :
    ∃ u, erase op tx code hold timeout s = finish .ok u := by
  obtain ⟨hok, hline⟩ := h.mutate hn hm
  rw [Machine.erase, if_pos hok]
  split
  · exact hline.waitBegin (n := 0) code timeout
  · exact ⟨_, rfl⟩

/-- R287: the probe's fifth byte is 0, and INIT notices (R200). -/
theorem exec_init (h : s.env.LineReads 0x00 300) (c : CsId) :
    ∃ u, exec (.init c) s = .next (finish .communicationFail u) := by
  have hc : (initConfigure c s).env.LineReads 0x00 300 := h
  have hfail : (initBody c s).1 = .communicationFail := by
    rw [initBody, probeBody, hc.issueThen (wireGuarded_wireOp _) (by decide), andThen_ok,
      initAfterProbe_of_zero rfl]
  exact ⟨(initBody c s).2, by rw [exec, execInit, finishWith, hfail]⟩

/-- R287: every other defined operation ends with OK, the longest of them after 265 exchanges. -/
theorem exec_ok (h : s.env.LineReads 0x00 300) (hi : requestCode i ≠ none)
    (hinit : ∀ c, i ≠ .init c) (hF : i ≠ .reservedF) :
    ∃ u, exec i s = .next (finish .ok u) := by
  have hr : SampleReady s := (h.mono (n := 2) (by decide)).sampleReady
  have ended {r : Result} (hok : r.1 = .ok) :
      ∃ u, (.next (finishWith r) : Out) = .next (finish .ok u) := ⟨r.2, by rw [finishWith, hok]⟩
  have sent {op tx nrx write} (hg : wireGuarded op = true) :
      (Machine.issueThen op tx nrx write s).1 = .ok := by rw [issueThen_ready _ _ _ hg hr]
  have erased {op tx code hold timeout} (hn : wireNeedsWriteEnable op = true) (htx : tx.length ≤ 3) :
      ∃ u, (.next (Machine.erase op tx code hold timeout s) : Out) = .next (finish .ok u) :=
    (h.erase hn (by omega) code hold timeout).imp fun _ hu => congrArg _ hu
  cases i
  case init c => exact absurd rfl (hinit c)
  case reservedF => exact absurd rfl hF
  case enableWriting | disableWriting | readPage | getJedec => exact ended (sent rfl)
  case writePage a => exact ended (h.mutate (op := .pp) (n := 0) rfl (by simp [programPayload])).1
  case eraseSector a hold => exact erased (op := .se) rfl le_rfl
  case eraseBlock32 a hold => exact erased (op := .be32) rfl le_rfl
  case eraseBlock64 a hold => exact erased (op := .be64) rfl le_rfl
  case eraseChip hold => exact erased (op := .ce) rfl (Nat.zero_le _)
  case busy => exact ⟨_, exec_busy s⟩
  case waitUntilFree timeout =>
    exact (waitBegin (n := 0) (h.mono (by decide)) 0xB timeout).imp fun _ hu => congrArg _ hu
  case reset => exact ended (by rw [resetBody_ready hr])
  case powerDown => exact ended (by rw [pdBody, issueThen_ready _ _ _ rfl hr, andThen_ok, settle])
  case releasePowerDown => exact ⟨_, exec_releasePowerDown_of_sent rfl⟩
  all_goals exact absurd rfl hi

/-- R287: GET_JEDEC reports three zero bytes. -/
theorem exec_getJedec (h : s.env.LineReads 0x00 300) (he : exec .getJedec s = .next t) :
    t.idMfr = 0 ∧ t.idType = 0 ∧ t.idCap = 0 := by
  obtain rfl := Host.Outcome.next.inj he
  rw [identBody, h.issueThen rfl (by decide)]
  exact ⟨rfl, rfl, rfl⟩

/-- R287: READ_PAGE fills the page buffer with zeros. -/
theorem exec_readPage (h : s.env.LineReads 0x00 300) {a : Addr}
    (he : exec (.readPage a) s = .next t) : t.pb = Vector.replicate 256 0 := by
  obtain rfl := Host.Outcome.next.inj he
  have hpage : pageOfBytes (List.replicate pageSize 0x00) = Vector.replicate 256 0 :=
    Vector.ext fun k hk => by simp [pageOfBytes]
  rw [readBody, h.issueThen rfl (by rw [length_addrBytes]; decide)]
  exact hpage

/-- BUSY reports bit 0 of what the line reads. -/
theorem exec_busy (h : s.env.LineReads b (n + 2)) (he : exec .busy s = .next t) :
    t.rspBusy = busyBit b := by
  obtain rfl := Host.Outcome.next.inj ((Machine.exec_busy s).symm.trans he)
  exact congrArg busyBit h.sample.1

/-! ### All ones: every sample is busy -/

theorem sampleBusy (h : s.env.LineReads 0xFF (n + 2)) : SampleBusy s := by
  rw [sampleBusy_iff, h.sample.1]
  rfl

/-- A pass of the wait goes on, or ends it with TIMEOUT (R221). -/
theorem waitPass (h : s.env.LineReads 0xFF (n + 2 + 2)) (code : BitVec 4) (timeout : Millis) :
    ((waitPass code timeout s).phase = .run code (.poll timeout) ∧
        (waitPass code timeout s).env.LineReads 0xFF (n + 2)) ∨
      ((waitPass code timeout s).phase = .idle ∧
        (waitPass code timeout s).rspStatus = .timeout) := by
  have hb := h.sampleBusy
  have hnext : (nowMs (Machine.afterSample s)).2.env.LineReads 0xFF (n + 2) := h.sample.2.reading
  by_cases hd : PastDeadline timeout s
  · rw [waitPass_pastDeadline code hb hd, waitConfirm_busy hnext.sampleBusy]
    exact .inr ⟨rfl, rfl⟩
  · rw [waitPass_inTime code hb hd]
    exact .inl ⟨rfl, hnext⟩

/-- A wait that has ended after `n` further passes, by induction on them: two answers are used up in
each, and two more in the confirmatory sample. -/
theorem run_waitPass (h : s.env.LineReads 0xFF (2 * n + 4)) {code : BitVec 4} {timeout : Millis}
    (hh : (Machine.waitPass code timeout s).hostIn = [])
    (hr : Host.Core.run Sys2Proof.core n (Machine.waitPass code timeout s) = .next t)
    (hidle : t.phase = .idle) : t.rspStatus = .timeout := by
  induction n generalizing s with
  | zero =>
    obtain rfl := Host.Outcome.next.inj hr
    rcases waitPass (n := 0) h code timeout with ⟨hp, -⟩ | ⟨-, hst⟩
    · cases hp.symm.trans hidle
    · exact hst
  | succ n ih =>
    rcases waitPass (n := 2 * n + 2) h code timeout with ⟨hp, hline⟩ | ⟨hp, hst⟩
    · rw [run_succ_of_step (step_poll hp hh)] at hr
      exact ih hline ((Path.waitPass (i := .busy) code timeout .refl).hostIn.trans hh) hr
    · rwa [run_idle hr hp hh]

end Env.LineReads

/-- INIT at a busy sample returns BUSY (R200). -/
theorem exec_init_busy (c : CsId) (hb : SampleBusy s) :
    exec (.init c) s = .next (finish .busy (afterSample (initConfigure c s))) := by
  rw [exec, execInit, initBody_busy c hb, finishWith]

/-- Every guarded operation, INIT among them, is turned away at a busy sample (R127, R247). -/
theorem exec_guarded_busy (hb : SampleBusy s) (hi : requestCode i ≠ none)
    (hfree : i ∉ [.busy, .releasePowerDown, .reservedF]) (hwait : ∀ T, i ≠ .waitUntilFree T) :
    ∃ t, exec i s = .next t ∧ t.phase = .idle ∧ t.rspStatus = .busy := by
  obtain ⟨d, b, k, e, -, turnedAway⟩ := guardedRequestsReturnBusy s hb
  cases i
  case init c => exact ⟨_, exec_init_busy c hb, rfl, rfl⟩
  case waitUntilFree T => exact absurd rfl (hwait T)
  case busy | releasePowerDown | reservedF => simp at hfree
  case enableWriting | disableWriting | getJedec | reset | powerDown | writePage | readPage |
      eraseSector | eraseBlock32 | eraseBlock64 | eraseChip =>
    exact ⟨_, turnedAway _ (by simp), rfl, rfl⟩
  all_goals exact absurd rfl hi

/-- Settles O51: zeros read ready at every guard and 0 in the probe's fifth byte; ones read busy at
every guard and in every pass of a wait. -/
theorem absentChipIsSeenOnlyByInit : Obligations.AbsentChipIsSeenOnlyByInit := by
  intro s hd hlen
  refine ⟨fun hzero => ?_, fun hones => ?_⟩
  · have h : s.env.LineReads 0x00 300 := ⟨hd, hlen, hzero⟩
    refine ⟨fun c => ?_, fun i hi hinit hF => ?_⟩
    · obtain ⟨u, hx⟩ := h.exec_init c
      exact ⟨_, hx, rfl, rfl⟩
    · obtain ⟨u, hx⟩ := h.exec_ok hi hinit hF
      refine ⟨_, hx, rfl, rfl, ?_, ?_, ?_⟩
      · rintro rfl
        exact h.exec_getJedec hx
      · rintro rfl
        exact h.exec_busy (n := 298) hx
      · rintro a rfl
        exact h.exec_readPage hx
  · have h : s.env.LineReads 0xFF 300 := ⟨hd, hlen, hones⟩
    refine ⟨fun i => exec_guarded_busy (h.sampleBusy (n := 298)), ?_, ?_⟩
    · exact ⟨_, exec_busy s, rfl, h.exec_busy (n := 298) (exec_busy s)⟩
    · intro timeout n s1 t hh hx hr hn hidle
      obtain rfl := Host.Outcome.next.inj ((exec_waitUntilFree timeout s).symm.trans hx)
      have hline : (waitEntry s).env.LineReads 0xFF (2 * n + 4) := ⟨hd, hn, hones⟩
      exact hline.run_waitPass ((exec_path hx).hostIn.trans hh) hr hidle

end Sys2Proof.Machine
end
